-- ==== Sys2Proof/Word.lean ====
section
/-! DEFINITION. The plain value types of the block: the widths of 00_scope.md R7 and the two operand
domains of 10_state.md R39 and R40. -/

namespace Sys2Proof

/-- A phase counter value, `PHASE_W = 2` bits (R7, R32). -/
abbrev Phase := BitVec 2

/-- A drive pattern or one half of the output byte, `PAT_W = 4` bits (R7, R9). -/
abbrev Nibble := BitVec 4

/-- An output byte, `BYTE_W = 8` bits (R7). -/
abbrev Byte := BitVec 8

/-- The operand of SET_DELAY, `AMT_W = 16` bits, unsigned (R7, R85). -/
abbrev Amount := BitVec 16

/-- The delay register, `DELAY_W = 9` bits (R7, R35). -/
abbrev DelayReg := BitVec 9

/-- One command word (R80). -/
abbrev CommandWord := BitVec 24

/-- The motor slots, `NSLOT = 2` (R7, R39): `a` is slot 0 (byte bits 3:0), `b` is slot 1, the "high"
motor (byte bits 7:4). -/
inductive MotorSlot where
  | a
  | b
  deriving DecidableEq, Repr

/-- The direction operand (R40): clockwise decrements the phase counter, counterclockwise
increments it (R120). -/
inductive Direction where
  | ccw
  | cw
  deriving DecidableEq, Repr

end Sys2Proof
end

