-- ==== Sys2Proof/Syntax.lean ====
section
/-! DEFINITION. The five commands of spec/opcode_table.json, one constructor per row (00_scope.md R3,
30_encoding.md R82). -/

namespace Sys2Proof

/-- A command the host can send (R3). The operand types hold exactly the values the encoding admits
(R84, R85), so every term is well-formed. -/
inductive Instr where
  /-- NOP, the idle command (R100). -/
  | nop
  /-- STEP m, d (R128). -/
  | step (m : MotorSlot) (d : Direction)
  /-- SET_DELAY amount (R101 to R105). -/
  | setDelay (amount : Amount)
  /-- STOP_ALL (R160). -/
  | stopAll
  /-- STOP_MOTOR m (R161, R162). -/
  | stopMotor (m : MotorSlot)
  deriving DecidableEq, Repr

end Sys2Proof
end

