-- ==== Sys2Proof/Decode.lean ====
section
/-! DEFINITION. The command decoder and encoder of 30_encoding.md. A command is one 24-bit word of one
format and one length (R80); decoding is total (R88) and rejects by name (R86). -/

namespace Sys2Proof

/-- Why a word is illegal: the two cases of R86. -/
inductive DecodeReject where
  /-- `op` is 101, 110 or 111. -/
  | reservedOp
  /-- `op` names a command, and a bit its pattern fixes to 0 is 1. -/
  | nonzeroFixedBit
  deriving DecidableEq, Repr

/-- One row of R83: a word selects the row when `w & mask = value`. -/
structure OpcodeRow where
  mask : CommandWord
  value : CommandWord
  deriving DecidableEq, Repr

/-- R83: "A word selects a command when `(w & mask) == match`". -/
def OpcodeRow.selects (r : OpcodeRow) (w : CommandWord) : Bool := (w &&& r.mask) == r.value

/-- R83, NOP. -/
def rowNop : OpcodeRow := { mask := 0xFFFFFF, value := 0x000000 }
/-- R83, STEP. -/
def rowStep : OpcodeRow := { mask := 0xE7FFFF, value := 0x200000 }
/-- R83, SET_DELAY. -/
def rowSetDelay : OpcodeRow := { mask := 0xFF0000, value := 0x400000 }
/-- R83, STOP_ALL. -/
def rowStopAll : OpcodeRow := { mask := 0xFFFFFF, value := 0x600000 }
/-- R83, STOP_MOTOR. -/
def rowStopMotor : OpcodeRow := { mask := 0xEFFFFF, value := 0x800000 }

/-- The whole of R83's table. -/
def opcodeRows : List OpcodeRow := [rowNop, rowStep, rowSetDelay, rowStopAll, rowStopMotor]

/-- The field `op`, bits 23:21 (R81). -/
def opField (w : CommandWord) : BitVec 3 := w.extractLsb' 21 3

/-- The field `z`, bits 18:16 (R81). -/
def zField (w : CommandWord) : BitVec 3 := w.extractLsb' 16 3

/-- The field `amount`, bits 15:0 (R81, R85). -/
def amountField (w : CommandWord) : Amount := w.extractLsb' 0 16

/-- Slot 0 is A and slot 1 is B (R39). -/
def slotOfBit (bit : Bool) : MotorSlot := if bit then .b else .a

/-- `d = 1` is CW and `d = 0` is CCW (R40). -/
def directionOfBit (bit : Bool) : Direction := if bit then .cw else .ccw

/-- The field `m`, bit 20 (R84). -/
def slotField (w : CommandWord) : MotorSlot := slotOfBit (w.getLsbD 20)

/-- The field `d`, bit 19 (R84). -/
def directionField (w : CommandWord) : Direction := directionOfBit (w.getLsbD 19)

/-- The decoder (R83, R86, R88): a command, or the name of what makes the word illegal. -/
def decode (w : CommandWord) : Except DecodeReject Instr :=
  if rowNop.selects w then .ok .nop
  else if rowStep.selects w then .ok (.step (slotField w) (directionField w))
  else if rowSetDelay.selects w then .ok (.setDelay (amountField w))
  else if rowStopAll.selects w then .ok .stopAll
  else if rowStopMotor.selects w then .ok (.stopMotor (slotField w))
  else if 5 ≤ (opField w).toNat then .error .reservedOp
  else .error .nonzeroFixedBit

/-- The bit of a motor slot (R39). -/
def slotBit : MotorSlot → BitVec 1
  | .a => 0
  | .b => 1

/-- The bit of a direction (R40). -/
def directionBit : Direction → BitVec 1
  | .ccw => 0
  | .cw => 1

/-- The word with the fields of R81, most significant first; `z` is always 000. -/
def packWord (op : BitVec 3) (m d : BitVec 1) (amount : Amount) : CommandWord :=
  op ++ m ++ d ++ (0 : BitVec 3) ++ amount

/-- The encoder (R82, R83): a field the command does not use is zero (R81). -/
def encode : Instr → CommandWord
  | .nop => packWord 0b000 0 0 0
  | .step m d => packWord 0b001 (slotBit m) (directionBit d) 0
  | .setDelay amount => packWord 0b010 0 0 amount
  | .stopAll => packWord 0b011 0 0 0
  | .stopMotor m => packWord 0b100 (slotBit m) 0 0

/-- The command of an opcode-table row whose bits are `w`: the word holds those bits, every bit from
`nbits` up is 0, and a command has no bits beyond the 24 of R80. -/
def decodeTableWord (nbits w : Nat) : Option Instr :=
  (decode (BitVec.ofNat 24 (w % 2 ^ nbits))).toOption

end Sys2Proof
end

