-- ==== Sys2Proof/Config.lean ====
section
/-! DEFINITION. The build parameters of the block (00_scope.md R7, R8) and its fixed constants. The
parameters are plain data that `Machine.State` carries (log 1), so that a statement about every state
is a statement about every build of the block. -/

namespace Sys2Proof

/-- `COMPOSE_MODE`: how the nibble_mux builds the byte (R8, R124, R125). -/
inductive ComposeMode where
  /-- The source behaviour: the nibble of the slot not served is zero (R124). -/
  | literal
  /-- The corrected design: the other slot's last transmitted nibble is kept (R125). -/
  | recombine
  deriving DecidableEq, Repr

/-- The parameters fixed when the block is built (R7). `COIL_MAP` lies outside the block (R6). -/
structure Config where
  /-- `TICK_W`, the width of the tick input and of the deadlines (D3). -/
  tickW : Nat
  /-- `DELAY_RESET`, the delay register after reset (D7). -/
  delayReset : DelayReg
  /-- `COMPOSE_MODE` (R8, D9). -/
  composeMode : ComposeMode
  deriving DecidableEq, Repr

/-- The spec's defaults: `TICK_W = 32` (D3), `DELAY_RESET = 0` (D7), `COMPOSE_MODE = LITERAL` (D9). -/
def Config.default : Config :=
  { tickW := 32, delayReset := 0, composeMode := .literal }

/-- The least tick width the spec allows (R132, D3). -/
def Config.minTickW : Nat := 10

/-- `DELAY_MAX`, the largest delay SET_DELAY accepts (R7, C2). -/
def Config.delayMax : Nat := 256

/-- The cause code `ILLEGAL_COMMAND` (R201). -/
def Config.illegalCommandCause : Nat := 1

end Sys2Proof
end

