-- ==== Sys2Proof/Machine/State.lean ====
section
/-! DEFINITION. The state of the block as plain data (10_state.md), its inputs and outputs as data
(logs 1 to 7), and the state after reset (R44, R230). -/

namespace Sys2Proof.Machine

/-- The two response bits of a command (R43). -/
structure Response where
  /-- 1 exactly when a STEP fired. -/
  fired : Bool
  /-- 1 exactly when the command word was not a valid encoding. -/
  illegal : Bool
  deriving DecidableEq, Repr

/-- How far the transmission of a command had come when a reset ended the command (R233, log 7). -/
inductive CutPoint where
  /-- The latch line had not moved yet. -/
  | before
  /-- Between the latch going low and the byte being latched: the device may latch a partly shifted
  byte. -/
  | during
  /-- The transmission was complete and the response not yet given. -/
  | after
  deriving DecidableEq, Repr

/-- What the host can do (R209), each with a reading of `tick_now`, `w = TICK_W` bits wide (R41). -/
inductive HostInput (w : Nat) where
  /-- One 24-bit command word; any word may be sent. -/
  | command (word : CommandWord) (tick : BitVec w)
  /-- A reset between commands (R230, R231). -/
  | reset (tick : BitVec w)
  /-- A command that a reset ends before its response (R233). -/
  | resetDuring (word : CommandWord) (tick : BitVec w) (point : CutPoint) (resetTick : BitVec w)
  deriving DecidableEq, Repr

/-- What the block does to its collaborators (R208), at the level of events (R5). -/
inductive OutEvent where
  /-- `BusBegin()` of a reset (R230). -/
  | busBegin
  /-- The latch line is driven to this level (R62, R230). -/
  | latch (level : BitVec 1)
  /-- `SerialShift(b)` complete: the trace event `Tx(b)` (R62). -/
  | tx (b : Byte)
  /-- A shift that a reset ended; which bits went out is unknown (R233). -/
  | cut
  deriving DecidableEq, Repr

/-- What is known of a raised IllegalCommand (R201): its cause code and the offending word. -/
structure IllegalCommand where
  cause : Nat
  word : CommandWord
  deriving DecidableEq, Repr

/-- The block. The first group is R30's tuple, with the response bits of R43; `cfg` are the build
parameters (R7, R8, log 1); the rest are the block's inputs and outputs as data (logs 4, 5, 6), which
are no state of the block: no command's effect on the tuple reads `outputs`, `responses` or
`illegals`. -/
structure State where
  /-- Build parameters; nothing writes them (R8). -/
  cfg : Config
  /-- Phase counter of slot 0 (R32). -/
  phase0 : Phase
  /-- Phase counter of slot 1 (R32). -/
  phase1 : Phase
  /-- Next allowed step of slot 0 (R33). -/
  deadline0 : BitVec cfg.tickW
  /-- Next allowed step of slot 1 (R33). -/
  deadline1 : BitVec cfg.tickW
  /-- The shared delay in milliseconds (R35). -/
  delay : DelayReg
  /-- The last byte transmitted (R36). -/
  lastByte : Byte
  /-- The level of the latch output line; idle is 1 (R37). -/
  latch : BitVec 1
  /-- The response bits of the last command (R43). -/
  resp : Response
  /-- The tick sample of the command being executed (R41). -/
  now : BitVec cfg.tickW
  /-- What the host will still send, in order (R42, R209). -/
  inputs : List (HostInput cfg.tickW)
  /-- Everything driven on the latch line and the bus, oldest first (R62, R212). -/
  outputs : List OutEvent
  /-- Every response given, oldest first (D1). -/
  responses : List Response
  /-- Every IllegalCommand raised, oldest first (R201). -/
  illegals : List IllegalCommand
  deriving DecidableEq, Repr

/-- The faults that stop the machine: none. R200: no operation can fail; R201 and R205: the one fault
of the spec, IllegalCommand, completes within its own command and the block goes on, so it is a next
state (log 9, safe: nothing is claimed of a stop). -/
inductive Fault where
  deriving DecidableEq, Repr

/-- The refusals. -/
inductive Refusal where
  /-- Raised by `exec` for an instruction that has no meaning yet, and by nothing else. Safe: the
  model claims nothing about it. No arm raises it. -/
  | notModelled (mnemonic : String)
  deriving DecidableEq, Repr

/-- A block with parameters `c` right after a first reset that sampled `tick` (R44, R230): nothing sent
before it, and the reset's own two outputs. -/
def State.afterReset (c : Config) (tick : BitVec c.tickW) : State :=
  { cfg := c
    phase0 := 0
    phase1 := 0
    deadline0 := tick
    deadline1 := tick
    delay := c.delayReset
    lastByte := 0x00
    latch := 1
    resp := { fired := false, illegal := false }
    now := tick
    inputs := []
    outputs := [.latch 1, .busBegin]
    responses := []
    illegals := [] }

/-- The machine right after reset: the spec's default parameters, and a reset at tick 0 (logs 2, 3). -/
def State.reset : State := State.afterReset Config.default 0

end Sys2Proof.Machine
end

