-- ==== Sys2Proof/Machine/Flags.lean ====
section
/-! DEFINITION. The tests and the response bits: the timing unit's due comparator and next deadline
(41_step.md R126, R127), the acceptance test of SET_DELAY (40_control.md R101), and the responses of
10_state.md R43. The block has no condition codes (R43). -/

namespace Sys2Proof.Machine

/-- The due comparator (R126): the wrapping difference, read in two's complement, is not negative. -/
def isDue {w : Nat} (now deadline : BitVec w) : Bool := (now - deadline).msb == false

/-- The next deadline (R127): `(now + zext(delay)) mod 2^TICK_W`. -/
def nextDeadline {w : Nat} (now : BitVec w) (delay : DelayReg) : BitVec w :=
  now + delay.setWidth w

/-- The acceptance test of SET_DELAY, at full 16-bit width (R101). -/
def delayAccepted (amount : Amount) : Bool := decide (amount.toNat ≤ Config.delayMax)

/-- The response of a legal command that did not fire (R43). -/
def respPlain : Response := { fired := false, illegal := false }

/-- The response of a STEP that fired (R43, R128). -/
def respFired : Response := { fired := true, illegal := false }

/-- The response of an illegal word (R43, R201). -/
def respIllegal : Response := { fired := false, illegal := true }

end Sys2Proof.Machine
end

