-- ==== Sys2Proof/Machine/Operands.lean ====
section
/-! DEFINITION. The operand forms and the datapath: the per-slot registers a motor operand selects, and
the three pure parts phase_counter, drive_pattern_encoder and nibble_mux of 41_step.md. -/

namespace Sys2Proof.Machine

/-- `S.phase[m]` (R11, R32). -/
def State.phase (s : State) : MotorSlot → Phase
  | .a => s.phase0
  | .b => s.phase1

/-- `S.deadline[m]` (R11, R33). -/
def State.deadline (s : State) : MotorSlot → BitVec s.cfg.tickW
  | .a => s.deadline0
  | .b => s.deadline1

/-- `S.phase[m] <- v`; the other slot's phase is kept (R34). -/
def State.setPhase (s : State) (m : MotorSlot) (v : Phase) : State :=
  { s with
    phase0 := if m = .a then v else s.phase0
    phase1 := if m = .b then v else s.phase1 }

/-- `S.deadline[m] <- v`; the other slot's deadline is kept (R34). -/
def State.setDeadline (s : State) (m : MotorSlot) (v : BitVec s.cfg.tickW) : State :=
  { s with
    deadline0 := if m = .a then v else s.deadline0
    deadline1 := if m = .b then v else s.deadline1 }

/-- phase_counter (R120): counterclockwise adds 1, clockwise adds 3, modulo 4. -/
def nextPhase (p : Phase) : Direction → Phase
  | .ccw => p + 1
  | .cw => p + 3

/-- drive_pattern_encoder (R122): the constant table `PAT`. -/
def drivePattern (p : Phase) : Nibble :=
  if p = 0 then 0b1001
  else if p = 1 then 0b1100
  else if p = 2 then 0b0110
  else 0b0011

/-- nibble_mux with `COMPOSE_MODE = LITERAL` (R124): the other nibble is 0000. -/
def muxLiteral (m : MotorSlot) (nib : Nibble) : Byte :=
  match m with
  | .a => (0b0000 : Nibble) ++ nib
  | .b => nib ++ (0b0000 : Nibble)

/-- nibble_mux with `COMPOSE_MODE = RECOMBINE` (R125): the other nibble is `last`'s. -/
def muxRecombine (m : MotorSlot) (nib : Nibble) (last : Byte) : Byte :=
  match m with
  | .a => last.extractLsb' 4 4 ++ nib
  | .b => nib ++ last.extractLsb' 0 4

/-- `MUX(m, nib, last)`: the one `COMPOSE_MODE` selects (R125). -/
def nibbleMux (mode : ComposeMode) (m : MotorSlot) (nib : Nibble) (last : Byte) : Byte :=
  match mode with
  | .literal => muxLiteral m nib
  | .recombine => muxRecombine m nib last

end Sys2Proof.Machine
end

