-- ==== Sys2Proof/Machine/Ops.lean ====
section
/-! DEFINITION. The operations the command rules share: the transmission (20_memory.md R62), the
response (R43), raising IllegalCommand (60_exceptions.md R201), the reset (70_reset_and_hazards.md
R230, R233), and taking the host's next input (R41). The block saves and restores nothing on a fault
(R205), so there is no exception entry and no return. -/

namespace Sys2Proof.Machine

/-- Drive the latch line (R37, R208). -/
def State.driveLatch (s : State) (level : BitVec 1) : State :=
  { s with latch := level, outputs := s.outputs ++ [.latch level] }

/-- `SerialShift(b)`: the collaborator shifts the byte out; what it returns is discarded (R62, D15). -/
def State.serialShift (s : State) (b : Byte) : State :=
  { s with outputs := s.outputs ++ [.tx b] }

/-- `S.last_byte <- b` (R36). -/
def State.setLastByte (s : State) (b : Byte) : State := { s with lastByte := b }

/-- `Transmit(b)` (R62): latch low, byte shifted, latch high, byte remembered, in this order. -/
def State.transmit (s : State) (b : Byte) : State :=
  (((s.driveLatch 0).serialShift b).driveLatch 1).setLastByte b

/-- `respond(fired, illegal)` (R11, R43). -/
def State.respond (s : State) (r : Response) : State :=
  { s with resp := r, responses := s.responses ++ [r] }

/-- `S.delay <- v` (R102). -/
def State.setDelay (s : State) (v : DelayReg) : State := { s with delay := v }

/-- `raise IllegalCommand(w)` (R201): no field of R30 changes and nothing is transmitted; the response
is the only effect. The cause code and the word are the fault's information (log 6). -/
def State.raiseIllegalCommand (s : State) (w : CommandWord) : State :=
  { s.respond respIllegal with
    illegals := s.illegals ++ [{ cause := Config.illegalCommandCause, word := w }] }

/-- `RESET(now)` (R230): every field of R30 and the response bits; the latch goes to its idle level, the
bus is begun, nothing is transmitted and no response is given (R232). -/
def State.resetBlock (s : State) (tick : BitVec s.cfg.tickW) : State :=
  { s with
    phase0 := 0
    phase1 := 0
    deadline0 := tick
    deadline1 := tick
    delay := s.cfg.delayReset
    lastByte := 0x00
    latch := 1
    resp := respPlain
    now := tick
    outputs := s.outputs ++ [.latch 1, .busBegin] }

/-- Take one input: `tick` is the sample every rule of the command uses (R41). -/
def State.accept (s : State) (tick : BitVec s.cfg.tickW) (rest : List (HostInput s.cfg.tickW)) :
    State :=
  { s with now := tick, inputs := rest }

/-- The outputs of a command that a reset ended, given the outputs `full` it would have had (R233): a
command that drives nothing leaves nothing behind. -/
def cutOutputs (point : CutPoint) (start full : List OutEvent) : List OutEvent :=
  match point with
  | .before => start
  | .during => if full = start then start else start ++ [.latch 0, .cut]
  | .after => full

/-- A reset that ends the command in flight without a response (R233): what the block holds is exactly
the reset state, and only the collaborators can have seen anything of the command. `s` is the state in
which the command began and `o` its outcome had it completed. -/
def State.resetDuringCommand (s : State) (o : Host.Outcome State Fault Refusal) (point : CutPoint)
    (tick : BitVec s.cfg.tickW) : Host.Outcome State Fault Refusal :=
  match o with
  | .next t => .next (({ s with outputs := cutOutputs point s.outputs t.outputs }).resetBlock tick)
  | .fault r => .fault r
  | .refused r => .refused r

end Sys2Proof.Machine
end

