-- ==== Sys2Proof/Machine/Control.lean ====
section
/-! DEFINITION. The control commands NOP and SET_DELAY (40_control.md). -/

namespace Sys2Proof.Machine

/-- NOP (R100): responds 0/0 and does nothing else. -/
def execNop (s : State) : Host.Outcome State Fault Refusal :=
  .next (s.respond respPlain)

/-- SET_DELAY (R101 to R105): an amount of at most 256 is stored in the 9-bit register; a larger one is
ignored, and no error is signalled. -/
def execSetDelay (amount : Amount) (s : State) : Host.Outcome State Fault Refusal :=
  if delayAccepted amount then .next ((s.setDelay (amount.setWidth 9)).respond respPlain)
  else .next (s.respond respPlain)

end Sys2Proof.Machine
end

