-- ==== Sys2Proof/Machine/StepMotor.lean ====
section
/-! DEFINITION. The STEP command (41_step.md R128 to R131). -/

namespace Sys2Proof.Machine

/-- The effects of a STEP that fires, in the order of R130: transmit the pattern of the phase before
the advance, advance the phase, then write the deadline. -/
def State.fire (s : State) (m : MotorSlot) (d : Direction) : State :=
  let b := nibbleMux s.cfg.composeMode m (drivePattern (s.phase m)) s.lastByte
  let sent := s.transmit b
  let moved := sent.setPhase m (nextPhase (sent.phase m) d)
  let timed := moved.setDeadline m (nextDeadline moved.now moved.delay)
  timed.respond respFired

/-- STEP m, d (R128): when the slot is not due it writes nothing and responds 0/0 (R129). -/
def execStep (m : MotorSlot) (d : Direction) (s : State) : Host.Outcome State Fault Refusal :=
  if isDue s.now (s.deadline m) then .next (s.fire m d)
  else .next (s.respond respPlain)

end Sys2Proof.Machine
end

