-- ==== Sys2Proof/Machine/Stop.lean ====
section
/-! DEFINITION. The stop commands (42_stop.md). Neither reads the tick nor touches the timing state
(R163). -/

namespace Sys2Proof.Machine

/-- STOP_ALL (R160): transmits 0x00 in both compose modes. -/
def execStopAll (s : State) : Host.Outcome State Fault Refusal :=
  .next ((s.transmit 0x00).respond respPlain)

/-- STOP_MOTOR m (R161, R162): transmits `MUX(m, 0000, last_byte)`, which is 0x00 in LITERAL mode and
clears only slot m's nibble in RECOMBINE mode. -/
def execStopMotor (m : MotorSlot) (s : State) : Host.Outcome State Fault Refusal :=
  .next ((s.transmit (nibbleMux s.cfg.composeMode m 0b0000 s.lastByte)).respond respPlain)

end Sys2Proof.Machine
end

