-- ==== Sys2Proof/Machine/Dispatch.lean ====
section
/-! DEFINITION. The dispatch of a decoded command to its meaning, one arm per constructor. -/

namespace Sys2Proof.Machine

/-- The effect of one command in a state that has sampled its tick (R3, R12). -/
def exec (i : Instr) (s : State) : Host.Outcome State Fault Refusal :=
  match i with
  | .nop => Sys2Proof.Machine.execNop s
  | .step m d => Sys2Proof.Machine.execStep m d s
  | .setDelay amount => Sys2Proof.Machine.execSetDelay amount s
  | .stopAll => Sys2Proof.Machine.execStopAll s
  | .stopMotor m => Sys2Proof.Machine.execStopMotor m s

end Sys2Proof.Machine
end

