-- ==== Sys2Proof/Machine/Run.lean ====
section
/-! DEFINITION. Running one input of the host: a command word, a reset, or a reset that ends a command
(60_exceptions.md R204, R209; 70_reset_and_hazards.md R230, R233). -/

namespace Sys2Proof.Machine

/-- Run one command word in a state that has sampled its tick: decoding comes first, and an illegal word
raises IllegalCommand before any execution (R204). -/
def runWord (w : CommandWord) (s : State) : Host.Outcome State Fault Refusal :=
  match decode w with
  | .ok i => exec i s
  | .error _ => .next (s.raiseIllegalCommand w)

/-- The commands that sample the tick: NOP does not (R100), every other one does (R41). -/
def samplesNow (i : Instr) : Bool :=
  match i with
  | .nop => false
  | .step _ _ => true
  | .setDelay _ => true
  | .stopAll => true
  | .stopMotor _ => true

/-- What the sample is once the word `w` is taken with the host's tick: the tick where the command samples
it, the sample held before where it does not (R41, R100). R201 says of an illegal word that `now` is not
used, and leaves open whether it is sampled: DESIGN CHOICE (log 5), it is, and nothing reads it. -/
def State.tickSample (s : State) (w : CommandWord) (tick : BitVec s.cfg.tickW) : BitVec s.cfg.tickW :=
  match decode w with
  | .ok i => if samplesNow i then tick else s.now
  | .error _ => tick

/-- Run one input, `rest` being what the host will still send: each command that samples the tick takes
its own (R41), and a reset is a step with its own tick (R231). -/
def runInput (s : State) (x : HostInput s.cfg.tickW) (rest : List (HostInput s.cfg.tickW)) :
    Host.Outcome State Fault Refusal :=
  match x with
  | .command w tick => runWord w (s.accept (s.tickSample w tick) rest)
  | .reset tick => .next (({ s with inputs := rest } : State).resetBlock tick)
  | .resetDuring w tick point resetTick =>
    (s.accept (s.tickSample w tick) rest).resetDuringCommand
      (runWord w (s.accept (s.tickSample w tick) rest)) point resetTick

/-- With no input the block waits for the host: it does nothing by itself (R203, log 4). -/
def State.waitForHost (s : State) : Host.Outcome State Fault Refusal := .next s

end Sys2Proof.Machine
end

