-- ==== Sys2Proof/Machine/Step.lean ====
section
/-! DEFINITION. One step of the block: the host's next input, whole (00_scope.md R3, R12; D1). -/

namespace Sys2Proof.Machine

/-- One step: the next input of the host, or waiting where there is none (log 4). -/
def step (s : State) : Host.Outcome State Fault Refusal :=
  match s.inputs with
  | [] => s.waitForHost
  | x :: rest => runInput s x rest

/-- `s` with one more command at the head of what the host sends: the word `w` of `nbits` bits, with the
tick the block sampled last (log 4). The next step runs exactly it. -/
def State.withFetchWord (s : State) (nbits w : Nat) : State :=
  { s with inputs := .command (BitVec.ofNat 24 (w % 2 ^ nbits)) s.now :: s.inputs }

end Sys2Proof.Machine
end

