-- ==== Sys2Proof/WellFormed.lean ====
section
/-! DEFINITION. The checks on values that a type alone does not enforce: the build parameters (R7, D3,
D7) and the amount an assembler is given (R89). A term of `Instr` needs none: its operand types hold
exactly the values of R84 and R85. -/

namespace Sys2Proof

/-- The parameters the spec allows: `TICK_W >= 10` (D3) and `DELAY_RESET` in 0..256 (D7). -/
def Config.wellFormed (c : Config) : Bool :=
  decide (Config.minTickW ≤ c.tickW) && decide (c.delayReset.toNat ≤ Config.delayMax)

/-- The amounts an assembler accepts: 0..65535 (R89). -/
def amountInRange (n : Nat) : Bool := decide (n ≤ 65535)

end Sys2Proof
end

