-- ==== Sys2Proof/Machine/Assembler.lean ====
section
/-! DEFINITION. The assembler: the textual form of each command (30_encoding.md R89) and the
pseudo-instructions with their expansions (R90). The spec gives the operand forms; how a line is cut
into words is the model's (log 12). -/

namespace Sys2Proof.Machine

/-- A line of source: a command of R89 or a pseudo-instruction of R90, the amount as written. -/
inductive AsmStmt where
  | nop
  | step (m : MotorSlot) (d : Direction)
  | setDelay (amount : Nat)
  | stopAll
  | stopMotor (m : MotorSlot)
  | stepCw (m : MotorSlot)
  | stepCcw (m : MotorSlot)
  | stop
  | stopSlot (m : MotorSlot)
  deriving DecidableEq, Repr

/-- Why a line is refused (R89: "An assembler refuses any other operand text, and any amount outside
0..65535"). -/
inductive AsmError where
  | unknownMnemonic
  | badOperands
  | amountOutOfRange
  deriving DecidableEq, Repr

/-- `<m> ::= 0 | 1 | A | B` (R89). -/
def parseSlot (text : String) : Option MotorSlot :=
  match text with
  | "0" => some .a
  | "A" => some .a
  | "1" => some .b
  | "B" => some .b
  | _ => none

/-- `<dir> ::= CW | CCW` (R89). -/
def parseDirection (text : String) : Option Direction :=
  match text with
  | "CW" => some .cw
  | "CCW" => some .ccw
  | _ => none

/-- The digits in order of value, letters in capitals; the first ten are the decimal digits. -/
def capitalDigits : List Char := "0123456789ABCDEF".toList

/-- The same digits with small letters. -/
def smallDigits : List Char := "0123456789abcdef".toList

/-- The value of a digit: its place among the digits. -/
def digitValue (c : Char) : Option Nat := (capitalDigits.idxOf? c).or (smallDigits.idxOf? c)

/-- A numeral in a base, after the digits already read make `acc`. -/
def parseDigits (base acc : Nat) : List Char → Option Nat
  | [] => some acc
  | c :: cs =>
    match digitValue c with
    | some d => if d < base then parseDigits base (acc * base + d) cs else none
    | none => none

/-- `<amount> ::= decimal | 0x-hex` (R89); the range is checked afterwards. -/
def parseAmount (text : String) : Option Nat :=
  match text.toList with
  | [] => none
  | '0' :: 'x' :: [] => none
  | '0' :: 'x' :: digits => parseDigits 16 0 digits
  | digits => parseDigits 10 0 digits

/-- The statement a mnemonic and its operands make (R89, R90). -/
def parseStmt (mnemonic : String) (operands : List String) : Except AsmError AsmStmt :=
  match mnemonic, operands with
  | "NOP", [] => .ok .nop
  | "STEP", [m, d] =>
    match parseSlot m, parseDirection d with
    | some m', some d' => .ok (.step m' d')
    | _, _ => .error .badOperands
  | "SET_DELAY", [n] =>
    match parseAmount n with
    | some n' => .ok (.setDelay n')
    | none => .error .badOperands
  | "STOP_ALL", [] => .ok .stopAll
  | "STOP_MOTOR", [m] =>
    match parseSlot m with
    | some m' => .ok (.stopMotor m')
    | none => .error .badOperands
  | "STEP_CW", [m] =>
    match parseSlot m with
    | some m' => .ok (.stepCw m')
    | none => .error .badOperands
  | "STEP_CCW", [m] =>
    match parseSlot m with
    | some m' => .ok (.stepCcw m')
    | none => .error .badOperands
  | "STOP", [] => .ok .stop
  | "STOP", [m] =>
    match parseSlot m with
    | some m' => .ok (.stopSlot m')
    | none => .error .badOperands
  | name, _ =>
    if name ∈ ["NOP", "STEP", "SET_DELAY", "STOP_ALL", "STOP_MOTOR", "STEP_CW", "STEP_CCW", "STOP"] then
      .error .badOperands
    else .error .unknownMnemonic

/-- The command a statement stands for (R90), once its amount is in range (R89). -/
def expand : AsmStmt → Except AsmError Instr
  | .nop => .ok .nop
  | .step m d => .ok (.step m d)
  | .setDelay n =>
    if amountInRange n then .ok (.setDelay (BitVec.ofNat 16 n)) else .error .amountOutOfRange
  | .stopAll => .ok .stopAll
  | .stopMotor m => .ok (.stopMotor m)
  | .stepCw m => .ok (.step m .cw)
  | .stepCcw m => .ok (.step m .ccw)
  | .stop => .ok .stopAll
  | .stopSlot m => .ok (.stopMotor m)

/-- Cut a text at every occurrence of a character. -/
def cutAt (c : Char) : List Char → List (List Char)
  | [] => [[]]
  | x :: xs =>
    if x = c then [] :: cutAt c xs
    else
      match cutAt c xs with
      | [] => [[x]]
      | t :: ts => (x :: t) :: ts

/-- A text without the blanks at its two ends. -/
def trimBlanks (cs : List Char) : List Char :=
  ((cs.dropWhile (· == ' ')).reverse.dropWhile (· == ' ')).reverse

/-- The mnemonic and the operands of a line (log 12): the first word, and what the commas separate in
the rest. -/
def splitLine (line : String) : String × List String :=
  let cs := trimBlanks line.toList
  let rest := trimBlanks (cs.dropWhile (· != ' '))
  (String.ofList (cs.takeWhile (· != ' ')),
    if rest = [] then [] else (cutAt ',' rest).map fun t => String.ofList (trimBlanks t))

/-- The statement of one line. -/
def parseLine (line : String) : Except AsmError AsmStmt :=
  parseStmt (splitLine line).1 (splitLine line).2

/-- The assembler: a line of text to a command word (R89, R90). -/
def assemble (line : String) : Except AsmError CommandWord :=
  match parseLine line with
  | .error e => .error e
  | .ok stmt =>
    match expand stmt with
    | .error e => .error e
    | .ok i => .ok (encode i)

/-- The text of a motor slot. -/
def slotText : MotorSlot → List Char
  | .a => ['A']
  | .b => ['B']

/-- The text of a direction. -/
def directionText : Direction → List Char
  | .ccw => ['C', 'C', 'W']
  | .cw => ['C', 'W']

/-- The digit of a nibble. -/
def hexDigit (n : Nibble) : Char := capitalDigits.getD n.toNat '0'

/-- An amount in 0x-hex, four digits. -/
def amountText (a : Amount) : List Char :=
  ['0', 'x', hexDigit (a.extractLsb' 12 4), hexDigit (a.extractLsb' 8 4), hexDigit (a.extractLsb' 4 4),
    hexDigit (a.extractLsb' 0 4)]

/-- The line of R89 that stands for a command. -/
def render (i : Instr) : String :=
  String.ofList
    (match i with
    | .nop => "NOP".toList
    | .step m d => "STEP ".toList ++ slotText m ++ [',', ' '] ++ directionText d
    | .setDelay a => "SET_DELAY ".toList ++ amountText a
    | .stopAll => "STOP_ALL".toList
    | .stopMotor m => "STOP_MOTOR ".toList ++ slotText m)

end Sys2Proof.Machine
end

