-- ==== Sys2Proof/Machine/Collaborators.lean ====
section
/-! DEFINITION. Views of the log `State.outputs`: the spec's output trace of `Tx(b)` events (20_memory.md
R61, R62), the bits on the data line (R63), and what is known of the 74HC595's parallel outputs (R46,
R67, R233; log 8). They are read by statements only: nothing the block does depends on them. -/

namespace Sys2Proof.Machine

/-- The byte of a `Tx(b)` event. -/
def OutEvent.txByte : OutEvent → Option Byte
  | .tx b => some b
  | .busBegin => none
  | .latch _ => none
  | .cut => none

/-- The `Tx(b)` events of a log, in order. -/
def txBytes (log : List OutEvent) : List Byte := log.filterMap OutEvent.txByte

/-- The output trace (R62): one byte per transmission, oldest first. -/
def State.trace (s : State) : List Byte := txBytes s.outputs

/-- The bits of a byte in the order they are sent: bit 7 first and bit 0 last (R63). -/
def serialBits (b : Byte) : List Bool :=
  [b.getLsbD 7, b.getLsbD 6, b.getLsbD 5, b.getLsbD 4, b.getLsbD 3, b.getLsbD 2, b.getLsbD 1,
    b.getLsbD 0]

/-- A serial-in register that takes bits at its low end. -/
def shiftIn (r : Byte) (bits : List Bool) : Byte :=
  bits.foldl (fun acc x => acc <<< 1 ||| (BitVec.ofBool x).setWidth 8) r

/-- What is known of the shift register (R13 "shift register", "latch"). `none` inside is a value the
spec does not give (U9, U10). -/
structure DeviceView where
  /-- Bits shifted in since the last latch pulse: no shift, or the byte they make. -/
  staged : Option (Option Byte)
  /-- The parallel outputs. -/
  outputs : Option Byte
  deriving DecidableEq, Repr

/-- One event at the device: a shift fills the register, and the latch line going high transfers what
was shifted in since the last pulse to the parallel outputs (R62, R67). -/
def DeviceView.event (v : DeviceView) : OutEvent → DeviceView
  | .busBegin => v
  | .tx b => { v with staged := some (some (shiftIn 0 (serialBits b))) }
  | .cut => { v with staged := some none }
  | .latch level =>
    match v.staged with
    | some byte => if level = 1 then { staged := none, outputs := byte } else v
    | none => v

/-- The device after a log, from outputs the spec does not give (R46). -/
def deviceAfter (log : List OutEvent) : DeviceView :=
  log.foldl DeviceView.event { staged := none, outputs := none }

/-- What is known of the 74HC595's parallel outputs: `none` before the first transmission (R46) and
after a reset during a transmission (R233). -/
def State.registerOutputs (s : State) : Option Byte := (deviceAfter s.outputs).outputs

end Sys2Proof.Machine
end

