-- ==== Sys2Proof/Safety.lean ====
section
/-! DEFINITION. What the statements say of a state and of a log: the invariant of the registers, the
shape of the log, and what was sent last. -/

namespace Sys2Proof.Machine

/-- The registers of a block in use: allowed build parameters (D3, D7), a delay of at most DELAY_MAX
(R35), the latch line idle between commands (R37), and at most one outcome per command (R204). -/
def State.Inv (s : State) : Prop :=
  s.cfg.wellFormed = true ∧ s.delay.toNat ≤ Config.delayMax ∧ s.latch = 1 ∧
    ¬ (s.resp.fired = true ∧ s.resp.illegal = true)

/-- A log made of whole gestures: a reset (R230), a transmission (R62), or the start of a transmission
with the reset that cut it (R233), none of them interleaved with another (R66). -/
def wholeGestures : List OutEvent → Bool
  | [] => true
  | .latch level :: .busBegin :: rest => level == 1 && wholeGestures rest
  | .latch low :: .tx _ :: .latch high :: rest => low == 0 && high == 1 && wholeGestures rest
  | .latch low :: .cut :: .latch level :: .busBegin :: rest =>
    low == 0 && level == 1 && wholeGestures rest
  | _ => false

/-- The nibbles the block may send (R123): an entry of the table, or 0000. -/
def legalNibble (n : Nibble) : Bool :=
  n == 0b0000 || n == 0b1001 || n == 0b1100 || n == 0b0110 || n == 0b0011

/-- Both halves of a byte are nibbles the block may send (R64, R123). -/
def legalByte (b : Byte) : Bool := legalNibble (b.extractLsb' 0 4) && legalNibble (b.extractLsb' 4 4)

/-- The nibble of a slot in a byte (R64). -/
def slotNibble (m : MotorSlot) (b : Byte) : Nibble :=
  match m with
  | .a => b.extractLsb' 0 4
  | .b => b.extractLsb' 4 4

/-- Every byte the block has sent, and the one it remembers, is made of nibbles it may send. -/
def State.SendsLegal (s : State) : Prop :=
  legalByte s.lastByte = true ∧ ∀ b ∈ s.trace, legalByte b = true

/-- The last byte of a log since its last reset, 0x00 where there is none (R36, R44). -/
def lastSent (log : List OutEvent) : Byte :=
  log.foldl (fun acc e => match e with | .busBegin => 0x00 | .tx b => b | .latch _ => acc | .cut => acc)
    0x00

/-- The slot that is not `m`. -/
def otherSlot : MotorSlot → MotorSlot
  | .a => .b
  | .b => .a

/-- The phase after `k` advances in one direction (R133). -/
def advanced (p : Phase) (d : Direction) : Nat → Phase
  | 0 => p
  | k + 1 => nextPhase (advanced p d k) d

/-- The words R86 calls illegal, field by field: a reserved `op`, or a bit the pattern fixes to 0. -/
def illegalWord (w : CommandWord) : Prop :=
  opField w = 0b101 ∨ opField w = 0b110 ∨ opField w = 0b111 ∨ zField w ≠ 0 ∨
    (w.getLsbD 20 = true ∧ (opField w = 0b000 ∨ opField w = 0b010 ∨ opField w = 0b011)) ∨
    (w.getLsbD 19 = true ∧ opField w ≠ 0b001) ∨
    (amountField w ≠ 0 ∧ opField w ≠ 0b010)

end Sys2Proof.Machine
end

