-- ==== Sys2Proof/Certificates/Slice0/Obligations.lean ====
section
/-! DEFINITION. The statements for the provers, from the numbered rules of spec/. A statement over all
states ranges over every build of the block (TICK_W, DELAY_RESET, COMPOSE_MODE), since a state carries
its parameters. Results are written out field by field: a field not named is unchanged. -/

open Sys2Proof Sys2Proof.Machine

/-! ## Encoding -/

/-- Decoding an encoded command gives it back, for every command and every operand value (R82, R83). -/
def Obligations.DecodeInvertsEncode : Prop :=
  ∀ i : Instr, decode (encode i) = .ok i

/-- A legal word is the encoding of the command it decodes to: no bit is ignored (R81, R86). -/
def Obligations.EncodeInvertsDecode : Prop :=
  ∀ (w : CommandWord) (i : Instr), decode w = .ok i → encode i = w

/-- Words written out from R83, R90 and the vectors of 95_test_vectors.md D1. -/
def Obligations.SpecWordsDecode : Prop :=
  decode 0b000_0_0_000_0000000000000000 = .ok .nop ∧
  decode 0b001_0_0_000_0000000000000000 = .ok (.step .a .ccw) ∧
  decode 0b001_0_1_000_0000000000000000 = .ok (.step .a .cw) ∧
  decode 0b001_1_0_000_0000000000000000 = .ok (.step .b .ccw) ∧
  decode 0b001_1_1_000_0000000000000000 = .ok (.step .b .cw) ∧
  decode 0b010_0_0_000_0000000100000000 = .ok (.setDelay 256) ∧
  decode 0b010_0_0_000_1111111111111111 = .ok (.setDelay 65535) ∧
  decode 0b011_0_0_000_0000000000000000 = .ok .stopAll ∧
  decode 0b100_0_0_000_0000000000000000 = .ok (.stopMotor .a) ∧
  decode 0b100_1_0_000_0000000000000000 = .ok (.stopMotor .b) ∧
  decode 0xA00000 = .error .reservedOp ∧
  decode 0x210000 = .error .nonzeroFixedBit

/-- R83 and R84: a word that matches a row's pattern decodes to that row's command, `m` is bit 20, `d`
is bit 19 and `amount` is bits 15:0; no word matches two rows. -/
def Obligations.PatternSelectsCommand : Prop :=
  (∀ w : CommandWord,
    (w &&& 0xFFFFFF = 0x000000 → decode w = .ok .nop) ∧
    (w &&& 0xE7FFFF = 0x200000 →
      decode w = .ok (.step (if w.getLsbD 20 = true then .b else .a)
        (if w.getLsbD 19 = true then .cw else .ccw))) ∧
    (w &&& 0xFF0000 = 0x400000 → decode w = .ok (.setDelay (w.extractLsb' 0 16))) ∧
    (w &&& 0xFFFFFF = 0x600000 → decode w = .ok .stopAll) ∧
    (w &&& 0xEFFFFF = 0x800000 →
      decode w = .ok (.stopMotor (if w.getLsbD 20 = true then .b else .a)))) ∧
  opcodeRows.Pairwise fun r q => ∀ w : CommandWord, ¬ (r.selects w = true ∧ q.selects w = true)

/-- R86 and R201: the illegal words are exactly those R86 describes field by field; each raises
IllegalCommand with cause code 1, whose one effect on the block is the response `illegal = 1`. That the input
is consumed and its tick written to the model's field `now` is the model's choice (logs 4, 5), and so are the
lists that record the response and the fault (log 6). -/
def Obligations.IllegalWordsRaise : Prop :=
  ∀ w : CommandWord,
    ((∀ i : Instr, decode w ≠ .ok i) ↔ illegalWord w) ∧
    (illegalWord w → ∀ (s : State) (tick : BitVec s.cfg.tickW) (rest : List (HostInput s.cfg.tickW)),
      s.inputs = .command w tick :: rest →
      step s = .next
        { s with
          now := tick
          inputs := rest
          resp := { fired := false, illegal := true }
          responses := s.responses ++ [{ fired := false, illegal := true }]
          illegals := s.illegals ++ [{ cause := 1, word := w }] }) ∧
    (¬ illegalWord w → ∀ (s t : State) (tick : BitVec s.cfg.tickW) (rest : List (HostInput s.cfg.tickW)),
      s.inputs = .command w tick :: rest → step s = .next t →
      t.resp.illegal = false ∧ t.illegals = s.illegals)

/-- R88: exactly 65544 of the 2^24 words are legal. -/
def Obligations.LegalWordCount : Prop :=
  ((Finset.range (2 ^ 24)).filter fun n => (decode (BitVec.ofNat 24 n)).isOk = true).card = 65544

/-! ## Reset -/

/-- Every field of the model's own reset state: the values of R44, with the model's choices of the default
build and tick 0 (logs 2, 3), nothing sent by the host (log 4), the tick sample of the reset (log 5) and the
logs holding what the reset itself drove (log 6). The 74HC595's outputs are unknown after it (R46, log 8). -/
def Obligations.ResetStateFields : Prop :=
  State.reset.cfg = { tickW := 32, delayReset := 0, composeMode := .literal } ∧
  State.reset.phase0 = 0 ∧ State.reset.phase1 = 0 ∧
  State.reset.deadline0.toNat = 0 ∧ State.reset.deadline1.toNat = 0 ∧
  State.reset.delay = 0 ∧ State.reset.lastByte = 0x00 ∧ State.reset.latch = 1 ∧
  State.reset.resp = { fired := false, illegal := false } ∧
  State.reset.now.toNat = 0 ∧ State.reset.inputs = [] ∧
  State.reset.outputs = [.latch 1, .busBegin] ∧ State.reset.trace = [] ∧
  State.reset.responses = [] ∧ State.reset.illegals = [] ∧
  State.reset.registerOutputs = none

/-- R230 and R44: a reset, from any state, writes every field of the tuple and the response bits, samples
its own tick, transmits nothing and gives no response. -/
def Obligations.ResetWritesEveryField : Prop :=
  ∀ (s : State) (tick : BitVec s.cfg.tickW) (rest : List (HostInput s.cfg.tickW)),
    s.inputs = .reset tick :: rest →
    step s = .next
      { s with
        phase0 := 0
        phase1 := 0
        deadline0 := tick
        deadline1 := tick
        delay := s.cfg.delayReset
        lastByte := 0x00
        latch := 1
        resp := { fired := false, illegal := false }
        now := tick
        inputs := rest
        outputs := s.outputs ++ [.latch 1, .busBegin] }

/-- R233 with the model's choice of log 7: a reset that ends a command in flight leaves exactly the reset
state and gives no response; the command leaves nothing, a cut transmission, or all its outputs. -/
def Obligations.ResetEndsCommandInFlight : Prop :=
  ∀ (s : State) (w : CommandWord) (tick resetTick : BitVec s.cfg.tickW) (point : CutPoint)
    (rest : List (HostInput s.cfg.tickW)),
    s.inputs = .resetDuring w tick point resetTick :: rest →
    ∃ (out : List OutEvent) (t : State),
      step { s with inputs := .command w tick :: rest } = .next t ∧
      (point = .before → out = s.outputs) ∧
      (point = .during → t.outputs = s.outputs → out = s.outputs) ∧
      (point = .during → t.outputs ≠ s.outputs → out = s.outputs ++ [.latch 0, .cut]) ∧
      (point = .after → out = t.outputs) ∧
      step s = .next
        { s with
          phase0 := 0
          phase1 := 0
          deadline0 := resetTick
          deadline1 := resetTick
          delay := s.cfg.delayReset
          lastByte := 0x00
          latch := 1
          resp := { fired := false, illegal := false }
          now := resetTick
          inputs := rest
          outputs := out ++ [.latch 1, .busBegin] }

/-! ## Control commands -/

/-- R100: NOP is the all-zero word, any other word with `op = 000` is illegal, and NOP changes nothing but
the response. -/
def Obligations.NopOnlyResponds : Prop :=
  decode 0x000000 = .ok .nop ∧
  (∀ w : CommandWord, opField w = 0b000 → w ≠ 0 → ∀ i : Instr, decode w ≠ .ok i) ∧
  ∀ s : State,
    exec .nop s = .next
      { s with
        resp := { fired := false, illegal := false }
        responses := s.responses ++ [{ fired := false, illegal := false }] }

/-- R100: a NOP neither samples nor uses the tick. A step on the word of NOP responds 0/0, whatever the tick
that comes with it; the sample held before, and with it every other field, is unchanged. That the input is
taken from a list and the sample held in a field is the model's form (logs 4, 5). -/
def Obligations.NopSamplesNoTick : Prop :=
  ∀ (s : State) (tick : BitVec s.cfg.tickW) (rest : List (HostInput s.cfg.tickW)),
    s.inputs = .command 0x000000 tick :: rest →
    step s = .next
      { s with
        inputs := rest
        resp := { fired := false, illegal := false }
        responses := s.responses ++ [{ fired := false, illegal := false }] }

/-- R101, R102, R103: an amount of at most 256 is stored; a larger one changes nothing; either way the
response is 0/0 and nothing else changes. -/
def Obligations.SetDelayResult : Prop :=
  ∀ amount : Amount,
    decode (0x400000 ||| amount.setWidth 24) = .ok (.setDelay amount) ∧
    ∀ s : State,
      exec (.setDelay amount) s = .next
        { s with
          delay := if amount.toNat ≤ 256 then BitVec.ofNat 9 amount.toNat else s.delay
          resp := { fired := false, illegal := false }
          responses := s.responses ++ [{ fired := false, illegal := false }] }

/-- R104: SET_DELAY, accepted or not, moves no deadline; and the next STEP that fires, of either slot, uses
the new delay. -/
def Obligations.NewDelayUsedByNextStep : Prop :=
  (∀ (s : State) (amount : Amount), ∃ t : State,
    exec (.setDelay amount) s = .next t ∧
    t.deadline0.toNat = s.deadline0.toNat ∧ t.deadline1.toNat = s.deadline1.toNat) ∧
  ∀ (s : State) (amount : Amount) (m : MotorSlot) (d : Direction),
    amount.toNat ≤ 256 → (s.now - s.deadline m).msb = false →
    ∃ t u : State,
      exec (.setDelay amount) s = .next t ∧ exec (.step m d) t = .next u ∧ u.resp.fired = true ∧
      (u.deadline m).toNat = (s.now.toNat + amount.toNat) % 2 ^ s.cfg.tickW

/-! ## STEP -/

/-- R128, R129: the four words of STEP; a STEP whose slot is due sends the pattern of the phase before the
advance, advances its slot's phase and sets its slot's deadline; a STEP whose slot is not due writes
nothing, transmits nothing and responds 0/0. Either way the other slot and the delay are unchanged. -/
def Obligations.StepResult : Prop :=
  decode 0x200000 = .ok (.step .a .ccw) ∧ decode 0x280000 = .ok (.step .a .cw) ∧
  decode 0x300000 = .ok (.step .b .ccw) ∧ decode 0x380000 = .ok (.step .b .cw) ∧
  ∀ (s : State) (m : MotorSlot) (d : Direction) (b : Byte),
    b = nibbleMux s.cfg.composeMode m (drivePattern (s.phase m)) s.lastByte →
    ((s.now - s.deadline m).msb = false →
      exec (.step m d) s = .next
        { s with
          phase0 := if m = .a then (if d = .ccw then s.phase0 + 1 else s.phase0 - 1) else s.phase0
          phase1 := if m = .b then (if d = .ccw then s.phase1 + 1 else s.phase1 - 1) else s.phase1
          deadline0 := if m = .a then s.now + s.delay.setWidth s.cfg.tickW else s.deadline0
          deadline1 := if m = .b then s.now + s.delay.setWidth s.cfg.tickW else s.deadline1
          lastByte := b
          latch := 1
          resp := { fired := true, illegal := false }
          outputs := s.outputs ++ [.latch 0, .tx b, .latch 1]
          responses := s.responses ++ [{ fired := true, illegal := false }] }) ∧
    ((s.now - s.deadline m).msb = true →
      exec (.step m d) s = .next
        { s with
          resp := { fired := false, illegal := false }
          responses := s.responses ++ [{ fired := false, illegal := false }] })

/-- R62: latch low, byte shifted, latch high, byte remembered, in this order. -/
def Obligations.TransmitSequence : Prop :=
  ∀ (s : State) (b : Byte),
    s.transmit b =
      { s with
        latch := 1
        lastByte := b
        outputs := s.outputs ++ [.latch 0, .tx b, .latch 1] }

/-- R120, R121: counterclockwise adds 1 and clockwise subtracts 1 modulo 4; the two are inverse, and four
steps one way return the phase. -/
def Obligations.PhaseCounterLaws : Prop :=
  ∀ p : Phase,
    (nextPhase p .ccw).toNat = (p.toNat + 1) % 4 ∧ (nextPhase p .cw).toNat = (p.toNat + 3) % 4 ∧
    nextPhase (nextPhase p .cw) .ccw = p ∧ nextPhase (nextPhase p .ccw) .cw = p ∧
    ∀ d : Direction, nextPhase (nextPhase (nextPhase (nextPhase p d) d) d) d = p

/-- R122, R123: the table, and its properties. -/
def Obligations.PatternTable : Prop :=
  drivePattern 0 = 0b1001 ∧ drivePattern 1 = 0b1100 ∧ drivePattern 2 = 0b0110 ∧
  drivePattern 3 = 0b0011 ∧
  (∀ p : Phase, drivePattern p = (0b1001 : Nibble).rotateRight p.toNat) ∧
  (∀ p : Phase, (drivePattern p).cpop = 2) ∧
  (∀ p : Phase, (drivePattern p &&& drivePattern (p + 1)).cpop = 1) ∧
  (∀ p q : Phase, drivePattern p = drivePattern q → p = q) ∧
  ∀ p : Phase, drivePattern p ≠ 0b0000

/-- R124, R125, R64: slot 0 owns bits 3:0 and slot 1 bits 7:4; the nibble of the slot not served is 0000
in LITERAL mode and the last byte's in RECOMBINE mode. -/
def Obligations.NibbleMuxPlacement : Prop :=
  ∀ (nib : Nibble) (last : Byte),
    (nibbleMux .literal .a nib last).toNat = nib.toNat ∧
    (nibbleMux .literal .b nib last).toNat = nib.toNat * 16 ∧
    (nibbleMux .recombine .a nib last).toNat = last.toNat / 16 * 16 + nib.toNat ∧
    (nibbleMux .recombine .b nib last).toNat = nib.toNat * 16 + last.toNat % 16

/-- R126: the due test is the sign of the wrapping difference, at every width. -/
def Obligations.DueTestIsSigned : Prop :=
  ∀ (w : Nat) (now deadline : BitVec w), 0 < w →
    (isDue now deadline = true ↔ 0 ≤ (now - deadline).toInt) ∧
    (isDue now deadline = true ↔
      (now.toNat + (2 ^ w - deadline.toNat)) % 2 ^ w < 2 ^ (w - 1))

/-- R127: the deadline a fired STEP writes is `(now + delay) mod 2^TICK_W`, with the delay held and the
tick sampled when the STEP began. -/
def Obligations.DeadlineAfterFire : Prop :=
  ∀ (s : State) (m : MotorSlot) (d : Direction),
    (s.now - s.deadline m).msb = false →
    ∃ t : State, exec (.step m d) s = .next t ∧
      (t.deadline m).toNat = (s.now.toNat + s.delay.toNat) % 2 ^ s.cfg.tickW

/-- R132: after a fire at `t0 = s.now` with delay D, a STEP of the slot at a time since `t0` below D is not
due and changes nothing, and from D on, for half the tick range, it is due and fires. -/
def Obligations.TimingLaw : Prop :=
  ∀ (s : State) (m : MotorSlot) (d : Direction),
    10 ≤ s.cfg.tickW → s.delay.toNat ≤ 256 → (s.now - s.deadline m).msb = false →
    ∃ t : State, exec (.step m d) s = .next t ∧
      ∀ (later : BitVec t.cfg.tickW) (e : Direction) (since : Nat),
        since = (later.toNat + (2 ^ s.cfg.tickW - s.now.toNat)) % 2 ^ s.cfg.tickW →
        (since < s.delay.toNat →
          exec (.step m e) { t with now := later } = .next
            { t with
              now := later
              resp := { fired := false, illegal := false }
              responses := t.responses ++ [{ fired := false, illegal := false }] }) ∧
        (s.delay.toNat ≤ since → since < s.delay.toNat + 2 ^ (s.cfg.tickW - 1) →
          ∃ u : State, exec (.step m e) { t with now := later } = .next u ∧ u.resp.fired = true)

/-- R131 item 4, R237: a slot whose deadline lies half the tick range or more in the past does not fire. -/
def Obligations.HalfRangeStall : Prop :=
  ∀ (s : State) (m : MotorSlot) (d : Direction),
    0 < s.cfg.tickW →
    2 ^ (s.cfg.tickW - 1) ≤
      (s.now.toNat + (2 ^ s.cfg.tickW - (s.deadline m).toNat)) % 2 ^ s.cfg.tickW →
    exec (.step m d) s = .next
      { s with
        resp := { fired := false, illegal := false }
        responses := s.responses ++ [{ fired := false, illegal := false }] }

/-- R131 item 2: with delay 0 a second STEP at the same tick fires as well. -/
def Obligations.ZeroDelayFiresAgain : Prop :=
  ∀ (s : State) (m : MotorSlot) (d e : Direction),
    s.delay = 0 → (s.now - s.deadline m).msb = false →
    ∃ t u : State,
      exec (.step m d) s = .next t ∧ (t.deadline m).toNat = s.now.toNat ∧
      exec (.step m e) t = .next u ∧ u.resp.fired = true ∧
      (u.deadline m).toNat = s.now.toNat

/-- R131 item 1: after a reset a STEP is due for half the tick range, whatever the delay, and sends 1001 in
its slot's nibble in either direction. -/
def Obligations.FirstStepAfterReset : Prop :=
  ∀ (c : Config) (tick now : BitVec c.tickW) (m : MotorSlot) (d : Direction),
    0 < c.tickW →
    (now.toNat + (2 ^ c.tickW - tick.toNat)) % 2 ^ c.tickW < 2 ^ (c.tickW - 1) →
    ∃ u : State, exec (.step m d) { State.afterReset c tick with now := now } = .next u ∧
      u.resp.fired = true ∧ slotNibble m u.lastByte = 0b1001 ∧
      slotNibble (otherSlot m) u.lastByte = 0b0000

/-- R34, R131 item 6: a STEP of one slot keeps the other slot's phase and deadline, and whether that slot
is due. -/
def Obligations.OtherSlotKept : Prop :=
  ∀ (s t : State) (m : MotorSlot) (d : Direction),
    exec (.step m d) s = .next t →
    t.phase (otherSlot m) = s.phase (otherSlot m) ∧
    (t.deadline (otherSlot m)).toNat = (s.deadline (otherSlot m)).toNat ∧
    isDue t.now (t.deadline (otherSlot m)) = isDue s.now (s.deadline (otherSlot m))

/-- R34: a STEP of one slot never reads the other slot's phase or deadline: two states that differ in
these alone give the same outputs, response, byte and own-slot registers. -/
def Obligations.SlotIndependence : Prop :=
  ∀ (s : State) (p : Phase) (v : BitVec s.cfg.tickW) (d : Direction),
    (∃ t u : State,
      exec (.step .a d) s = .next t ∧
      exec (.step .a d) { s with phase1 := p, deadline1 := v } = .next u ∧
      u.phase0 = t.phase0 ∧ u.deadline0.toNat = t.deadline0.toNat ∧ u.lastByte = t.lastByte ∧
      u.outputs = t.outputs ∧ u.resp = t.resp ∧ u.responses = t.responses ∧
      u.phase1 = p ∧ u.deadline1.toNat = v.toNat) ∧
    ∃ t u : State,
      exec (.step .b d) s = .next t ∧
      exec (.step .b d) { s with phase0 := p, deadline0 := v } = .next u ∧
      u.phase1 = t.phase1 ∧ u.deadline1.toNat = t.deadline1.toNat ∧ u.lastByte = t.lastByte ∧
      u.outputs = t.outputs ∧ u.resp = t.resp ∧ u.responses = t.responses ∧
      u.phase0 = p ∧ u.deadline0.toNat = v.toNat

/-- R133: a run of fired STEPs of one slot in one direction sends `PAT` of the phases p, p±1, p±2, …, one
byte each, and leaves the phase advanced as often. -/
def Obligations.PatternSequence : Prop :=
  ∀ (n : Nat) (s t : State) (m : MotorSlot) (d : Direction),
    n ≤ s.inputs.length →
    (∀ x ∈ s.inputs.take n, ∃ tick, x = .command (encode (.step m d)) tick) →
    Host.Core.run Sys2Proof.core n s = .next t →
    t.responses = s.responses ++ List.replicate n { fired := true, illegal := false } →
    ∃ sent : List Byte,
      t.trace = s.trace ++ sent ∧
      sent.map (slotNibble m) =
        (List.range n).map (fun k => drivePattern (advanced (s.phase m) d k)) ∧
      t.phase m = advanced (s.phase m) d n

/-- R239, R131 item 5: the first fired STEP after a change of direction sends the pattern the old direction
had prepared, whatever its own direction. -/
def Obligations.DirectionLag : Prop :=
  ∀ (s : State) (m : MotorSlot) (d : Direction),
    (s.now - s.deadline m).msb = false →
    ∃ t : State, exec (.step m d) s = .next t ∧
      ∀ (later : BitVec t.cfg.tickW) (e : Direction), (later - t.deadline m).msb = false →
        ∃ u : State, exec (.step m e) { t with now := later } = .next u ∧ u.resp.fired = true ∧
          slotNibble m u.lastByte = drivePattern (nextPhase (s.phase m) d)

/-! ## Stop commands -/

/-- R160: STOP_ALL transmits 0x00 and changes nothing else but the response, in both compose modes. -/
def Obligations.StopAllResult : Prop :=
  decode 0x600000 = .ok .stopAll ∧
  ∀ s : State,
    exec .stopAll s = .next
      { s with
        lastByte := 0x00
        latch := 1
        resp := { fired := false, illegal := false }
        outputs := s.outputs ++ [.latch 0, .tx 0x00, .latch 1]
        responses := s.responses ++ [{ fired := false, illegal := false }] }

/-- R161: in LITERAL mode STOP_MOTOR transmits 0x00 for either slot. -/
def Obligations.StopMotorLiteral : Prop :=
  decode 0x800000 = .ok (.stopMotor .a) ∧ decode 0x900000 = .ok (.stopMotor .b) ∧
  ∀ (s : State) (m : MotorSlot),
    s.cfg.composeMode = .literal →
    exec (.stopMotor m) s = .next
      { s with
        lastByte := 0x00
        latch := 1
        resp := { fired := false, illegal := false }
        outputs := s.outputs ++ [.latch 0, .tx 0x00, .latch 1]
        responses := s.responses ++ [{ fired := false, illegal := false }] }

/-- R162: in RECOMBINE mode STOP_MOTOR clears slot m's nibble of the last byte and transmits the result. From
then on slot m stays de-energized until slot m itself fires: whatever state has slot m's nibble of the last
byte 0000, every command but a STEP of slot m that fires keeps it 0000, sends it 0000 in any byte it
transmits and keeps the mode, and so does every step (a reset included, R44). In particular a fired STEP of
the other slot keeps it. -/
def Obligations.StopMotorRecombine : Prop :=
  decode 0x800000 = .ok (.stopMotor .a) ∧ decode 0x900000 = .ok (.stopMotor .b) ∧
  (∀ (s : State) (m : MotorSlot) (b : Byte),
    s.cfg.composeMode = .recombine →
    b = (if m = .a then s.lastByte &&& 0xF0 else s.lastByte &&& 0x0F) →
    slotNibble m b = 0b0000 ∧
    exec (.stopMotor m) s = .next
      { s with
        lastByte := b
        latch := 1
        resp := { fired := false, illegal := false }
        outputs := s.outputs ++ [.latch 0, .tx b, .latch 1]
        responses := s.responses ++ [{ fired := false, illegal := false }] }) ∧
  (∀ (s t : State) (m : MotorSlot) (i : Instr),
    s.cfg.composeMode = .recombine → slotNibble m s.lastByte = 0b0000 →
    (∀ d, i = .step m d → (s.now - s.deadline m).msb = true) →
    exec i s = .next t →
    slotNibble m t.lastByte = 0b0000 ∧ t.cfg.composeMode = .recombine ∧
    ∃ sent, t.trace = s.trace ++ sent ∧ ∀ b ∈ sent, slotNibble m b = 0b0000) ∧
  (∀ (s t : State) (m : MotorSlot),
    s.cfg.composeMode = .recombine → slotNibble m s.lastByte = 0b0000 →
    (∀ w tick rest d, s.inputs = .command w tick :: rest → decode w = .ok (.step m d) →
      (tick - s.deadline m).msb = true) →
    step s = .next t →
    slotNibble m t.lastByte = 0b0000 ∧ t.cfg.composeMode = .recombine) ∧
  ∀ (s : State) (m : MotorSlot) (d : Direction),
    s.cfg.composeMode = .recombine → (s.now - s.deadline (otherSlot m)).msb = false →
    ∃ t u : State,
      exec (.stopMotor m) s = .next t ∧ slotNibble m t.lastByte = 0b0000 ∧
      exec (.step (otherSlot m) d) t = .next u ∧ u.resp.fired = true ∧
      slotNibble m u.lastByte = 0b0000

/-- R163: a stop command reads no tick and writes no phase, deadline or delay; a STEP after it fires when
its deadline says so and resumes from the phase the slot held. -/
def Obligations.StopsKeepTiming : Prop :=
  ∀ (s : State) (i : Instr) (other : BitVec s.cfg.tickW),
    (i = .stopAll ∨ ∃ k, i = .stopMotor k) →
    ∃ t u : State,
      exec i s = .next t ∧ exec i { s with now := other } = .next u ∧
      u.outputs = t.outputs ∧ u.lastByte = t.lastByte ∧
      t.phase0 = s.phase0 ∧ t.phase1 = s.phase1 ∧ t.delay = s.delay ∧
      t.deadline0.toNat = s.deadline0.toNat ∧ t.deadline1.toNat = s.deadline1.toNat ∧
      ∀ (m : MotorSlot) (d : Direction),
        ∃ v : State, exec (.step m d) t = .next v ∧
          (v.resp.fired = true ↔ isDue s.now (s.deadline m) = true) ∧
          (v.resp.fired = true → slotNibble m v.lastByte = drivePattern (s.phase m))

/-- R125, C3: in RECOMBINE mode a fired STEP keeps the nibble last sent for the other slot. -/
def Obligations.RecombineKeepsOtherNibble : Prop :=
  ∀ (s : State) (m : MotorSlot) (d : Direction),
    s.cfg.composeMode = .recombine → (s.now - s.deadline m).msb = false →
    ∃ t : State, exec (.step m d) s = .next t ∧
      slotNibble (otherSlot m) t.lastByte = slotNibble (otherSlot m) s.lastByte ∧
      slotNibble m t.lastByte = drivePattern (s.phase m)

/-! ## Frames -/

/-- What a STEP leaves unchanged: everything but its own slot's phase and deadline, the last byte, the
latch line, the response and the two logs (R34, R128, R129). -/
def Obligations.StepFrame : Prop :=
  ∀ (s t : State) (m : MotorSlot) (d : Direction),
    exec (.step m d) s = .next t →
    ∃ (p : Phase) (v : BitVec s.cfg.tickW) (b : Byte) (l : BitVec 1) (r : Response)
      (out : List OutEvent) (rs : List Response),
      t = { s with
            phase0 := if m = .a then p else s.phase0
            phase1 := if m = .b then p else s.phase1
            deadline0 := if m = .a then v else s.deadline0
            deadline1 := if m = .b then v else s.deadline1
            lastByte := b, latch := l, resp := r, outputs := out, responses := rs }

/-- What NOP and SET_DELAY leave unchanged: everything but the response, and the delay for SET_DELAY
(R100, R102, R103). -/
def Obligations.ControlFrame : Prop :=
  ∀ (s t : State) (i : Instr),
    (i = .nop ∨ ∃ amount, i = .setDelay amount) → exec i s = .next t →
    ∃ (v : DelayReg) (r : Response) (rs : List Response),
      t = { s with delay := v, resp := r, responses := rs } ∧ (i = .nop → v = s.delay)

/-- What the stop commands leave unchanged: everything but the last byte, the latch line, the response and
the two logs (R160, R161, R162). -/
def Obligations.StopFrame : Prop :=
  ∀ (s t : State) (i : Instr),
    (i = .stopAll ∨ ∃ m, i = .stopMotor m) → exec i s = .next t →
    ∃ (b : Byte) (l : BitVec 1) (r : Response) (out : List OutEvent) (rs : List Response),
      t = { s with lastByte := b, latch := l, resp := r, outputs := out, responses := rs }

/-! ## The step -/

/-- A step whose next input is a legal command runs that command, with the input consumed and its tick
sampled (R12, R41, R204), but by a NOP, which does not sample the tick (R100). The
input list and the field of the sample are the model's form (logs 4, 5). -/
def Obligations.StepRunsDecodedCommand : Prop :=
  ∀ (s : State) (w : CommandWord) (tick : BitVec s.cfg.tickW) (rest : List (HostInput s.cfg.tickW))
    (i : Instr),
    s.inputs = .command w tick :: rest → decode w = .ok i →
    step s = exec i { s with now := if i = .nop then s.now else tick, inputs := rest }

/-- The word placed by `withFetchWord` is the one the next step runs (the model's input queue, log 4). -/
def Obligations.FetchWordRunsNext : Prop :=
  ∀ (s : State) (nbits w : Nat) (i : Instr),
    decodeTableWord nbits w = some i → step (s.withFetchWord nbits w) = exec i s

/-- With nothing sent by the host the block changes nothing by itself (the model's choice, log 4; R203). -/
def Obligations.IdleStepKeepsState : Prop :=
  ∀ s : State, s.inputs = [] → step s = .next s

/-- No command and no step can fail: every legal command and every reset completes (R200, R202); a step on an
illegal word is a next state too (R201, R205; the model's choice where U11 would allow a fault, log 9), and
so is a step with no input (the model's choice, log 4). -/
def Obligations.EveryStepCompletes : Prop :=
  (∀ (i : Instr) (s : State), ∃ t : State, exec i s = .next t) ∧
  ∀ s : State, ∃ t : State, step s = .next t

/-- R43: what the response bits of a command say, and that each command gives one response. -/
def Obligations.ResponseBits : Prop :=
  ∀ (s t : State) (w : CommandWord) (tick : BitVec s.cfg.tickW)
    (rest : List (HostInput s.cfg.tickW)),
    s.inputs = .command w tick :: rest → step s = .next t →
    (t.resp.fired = true ↔
      ∃ m d, decode w = .ok (.step m d) ∧ (tick - s.deadline m).msb = false) ∧
    (t.resp.illegal = true ↔ ∀ i : Instr, decode w ≠ .ok i) ∧
    t.responses = s.responses ++ [t.resp]

/-- R61: which commands transmit, and that each transmits exactly one byte. -/
def Obligations.OneBytePerTransmission : Prop :=
  (∀ (i : Instr) (s t : State), exec i s = .next t →
    (i = .nop → t.trace = s.trace) ∧
    (∀ amount, i = .setDelay amount → t.trace = s.trace) ∧
    (∀ m d, i = .step m d →
      t.trace = s.trace ++ (if t.resp.fired = true then [t.lastByte] else [])) ∧
    (i = .stopAll → t.trace = s.trace ++ [t.lastByte]) ∧
    (∀ m, i = .stopMotor m → t.trace = s.trace ++ [t.lastByte])) ∧
  (∀ (s t : State) (w : CommandWord) (tick : BitVec s.cfg.tickW)
    (rest : List (HostInput s.cfg.tickW)),
    s.inputs = .command w tick :: rest → (∀ i : Instr, decode w ≠ .ok i) → step s = .next t →
    t.trace = s.trace) ∧
  ∀ (s t : State) (tick : BitVec s.cfg.tickW) (rest : List (HostInput s.cfg.tickW)),
    s.inputs = .reset tick :: rest → step s = .next t → t.trace = s.trace

/-! ## Whole-machine rules -/

/-- No step changes a build parameter: COMPOSE_MODE by R8, TICK_W and DELAY_RESET as parameters of R7 (the
model carries the three as data, log 1). -/
def Obligations.ConfigNeverChanges : Prop :=
  ∀ s t : State, step s = .next t → t.cfg = s.cfg

/-- R32: only a STEP of the slot that fires, and a reset, write a phase counter. -/
def Obligations.PhaseWriters : Prop :=
  ∀ (s t : State) (m : MotorSlot), step s = .next t →
    t.phase m = s.phase m ∨
    (∃ w tick rest d, s.inputs = .command w tick :: rest ∧ decode w = .ok (.step m d) ∧
      (tick - s.deadline m).msb = false ∧ t.phase m = nextPhase (s.phase m) d) ∨
    (((∃ tick rest, s.inputs = .reset tick :: rest) ∨
      ∃ w tick point resetTick rest, s.inputs = .resetDuring w tick point resetTick :: rest) ∧
      t.phase m = 0)

/-- R33: only a STEP of the slot that fires, and a reset, write a deadline. -/
def Obligations.DeadlineWriters : Prop :=
  ∀ (s t : State) (m : MotorSlot), step s = .next t →
    (t.deadline m).toNat = (s.deadline m).toNat ∨
    (∃ w tick rest d, s.inputs = .command w tick :: rest ∧ decode w = .ok (.step m d) ∧
      (tick - s.deadline m).msb = false ∧
      (t.deadline m).toNat = (tick.toNat + s.delay.toNat) % 2 ^ s.cfg.tickW) ∨
    (∃ tick rest, s.inputs = .reset tick :: rest ∧ (t.deadline m).toNat = tick.toNat) ∨
    ∃ w tick point resetTick rest, s.inputs = .resetDuring w tick point resetTick :: rest ∧
      (t.deadline m).toNat = resetTick.toNat

/-- R35: only an accepted SET_DELAY, and a reset, write the delay. -/
def Obligations.DelayWriters : Prop :=
  ∀ s t : State, step s = .next t →
    t.delay = s.delay ∨
    (∃ w tick rest amount, s.inputs = .command w tick :: rest ∧
      decode w = .ok (.setDelay amount) ∧ amount.toNat ≤ 256 ∧ t.delay.toNat = amount.toNat) ∨
    (((∃ tick rest, s.inputs = .reset tick :: rest) ∨
      ∃ w tick point resetTick rest, s.inputs = .resetDuring w tick point resetTick :: rest) ∧
      t.delay = s.cfg.delayReset)

/-- R66, R68: a step adds at the end of the logs and never rewrites them; it gives at most one response. -/
def Obligations.LogsOnlyGrow : Prop :=
  ∀ s t : State, step s = .next t →
    (∃ more, t.outputs = s.outputs ++ more ∧ more.length ≤ 5) ∧
    (∃ more, t.responses = s.responses ++ more ∧ more.length ≤ 1) ∧
    ∃ more, t.illegals = s.illegals ++ more ∧ more.length ≤ 1

/-! ## Invariants -/

/-- The invariants below hold after a reset of any allowed build, and at the model's reset state. -/
def Obligations.ResetMeetsInvariants : Prop :=
  (∀ (c : Config) (tick : BitVec c.tickW), c.wellFormed = true → (State.afterReset c tick).Inv) ∧
  (∀ (c : Config) (tick : BitVec c.tickW),
    wholeGestures (State.afterReset c tick).outputs = true ∧ (State.afterReset c tick).SendsLegal ∧
    (State.afterReset c tick).lastByte = lastSent (State.afterReset c tick).outputs) ∧
  State.reset.Inv ∧ wholeGestures State.reset.outputs = true ∧ State.reset.SendsLegal ∧
  State.reset.lastByte = lastSent State.reset.outputs

/-- R35, R37, R204, D3, D7: every step keeps the delay within 0..256, the latch line idle, at most one
outcome in the response, and the build parameters allowed. -/
def Obligations.StepKeepsRegisterInvariant : Prop :=
  ∀ s t : State, s.Inv → step s = .next t → t.Inv

/-- R37, R62, R66: every step keeps the log a sequence of whole gestures, so that the latch line is low
only during a transmission and no two transmissions are interleaved. The reset gesture is R230's; the cut
gesture (latch 0, cut, then the reset's) is the model's form of R233 (log 7). -/
def Obligations.StepKeepsWholeGestures : Prop :=
  ∀ s t : State, wholeGestures s.outputs = true → step s = .next t →
    wholeGestures t.outputs = true

/-- R123, R124, R125: every step keeps every nibble the block has sent an entry of the table or 0000. -/
def Obligations.StepKeepsLegalBytes : Prop :=
  ∀ s t : State, s.SendsLegal → step s = .next t → t.SendsLegal

/-- R36, R44: every step keeps `last_byte` the last byte sent since the last reset, 0x00 before one. -/
def Obligations.StepKeepsLastByte : Prop :=
  ∀ s t : State, s.lastByte = lastSent s.outputs → step s = .next t →
    t.lastByte = lastSent t.outputs

/-- R124, C4: in LITERAL mode every byte sent energizes at most one motor. -/
def Obligations.LiteralOneMotorPerByte : Prop :=
  ∀ s t : State, s.cfg.composeMode = .literal →
    (∀ b ∈ s.trace, slotNibble .a b = 0 ∨ slotNibble .b b = 0) → step s = .next t →
    ∀ b ∈ t.trace, slotNibble .a b = 0 ∨ slotNibble .b b = 0

/-! ## The output path and the device -/

/-- R63: bit 7 is sent first and bit 0 last. That eight shifts from any contents leave the byte itself is about
`shiftIn`, the model's own view of the 74HC595's shift register (DEDUCED, log 8). -/
def Obligations.SerialOrder : Prop :=
  ∀ (b r : Byte),
    (∀ k : Nat, k < 8 → (serialBits b)[k]? = some (b.getLsbD (7 - k))) ∧
    (serialBits b).length = 8 ∧ shiftIn r (serialBits b) = b

/-- R67, R46 (the model's view, log 8): a command that transmits leaves its byte on the register outputs,
and a command that does not leaves them as they were. -/
def Obligations.RegisterOutputsFollow : Prop :=
  ∀ (s t : State) (w : CommandWord) (tick : BitVec s.cfg.tickW)
    (rest : List (HostInput s.cfg.tickW)),
    wholeGestures s.outputs = true → s.inputs = .command w tick :: rest → step s = .next t →
    (t.trace = s.trace → t.registerOutputs = s.registerOutputs) ∧
    (t.trace ≠ s.trace → t.registerOutputs = some t.lastByte)

/-- R232, R233 (the model's view, log 8, and its form of the input, log 7): a reset between commands leaves
the register outputs as they were. A reset that ends a command leaves them as they were where the command
transmits nothing or had not begun its transmission, unknown where it falls into the transmission, and at
the byte sent where the transmission was complete; `u` is the state the command would have left. -/
def Obligations.ResetAndRegisterOutputs : Prop :=
  ∀ s : State, wholeGestures s.outputs = true →
    (∀ tick rest, s.inputs = .reset tick :: rest →
      ∃ t : State, step s = .next t ∧ t.registerOutputs = s.registerOutputs) ∧
    ∀ w tick point resetTick rest, s.inputs = .resetDuring w tick point resetTick :: rest →
      ∃ t u : State,
        step s = .next t ∧ step { s with inputs := .command w tick :: rest } = .next u ∧
        (u.outputs = s.outputs → t.registerOutputs = s.registerOutputs) ∧
        (u.outputs ≠ s.outputs →
          (point = .before → t.registerOutputs = s.registerOutputs) ∧
          (point = .during → t.registerOutputs = none) ∧
          (point = .after → t.registerOutputs = some u.lastByte))

/-! ## The assembler -/

/-- R89: the canonical line of every command assembles to its word. -/
def Obligations.AssembleRender : Prop :=
  ∀ i : Instr, assemble (render i) = .ok (encode i)

/-- R90: the pseudo-instructions and their words. -/
def Obligations.PseudoInstructions : Prop :=
  assemble "STEP_CW 0" = .ok 0x280000 ∧ assemble "STEP_CW 1" = .ok 0x380000 ∧
  assemble "STEP_CCW 0" = .ok 0x200000 ∧ assemble "STEP_CCW 1" = .ok 0x300000 ∧
  assemble "STOP" = .ok 0x600000 ∧
  assemble "STOP 0" = .ok 0x800000 ∧ assemble "STOP 1" = .ok 0x900000

/-- R89: the operand texts an assembler takes. A slot and a direction are written as R89 lists them. An amount
is a decimal numeral or 0x and a hexadecimal numeral (capital or small letters, log 12), most significant
digit first, with the value its digits give; every other text is refused, and so is an amount above
65535. -/
def Obligations.AssemblerOperands : Prop :=
  (∀ text : String,
    (parseSlot text = some .a ↔ text = "0" ∨ text = "A") ∧
    (parseSlot text = some .b ↔ text = "1" ∨ text = "B") ∧
    (parseDirection text = some .cw ↔ text = "CW") ∧
    (parseDirection text = some .ccw ↔ text = "CCW")) ∧
  (∀ ds : List (Fin 10), ds ≠ [] →
    parseAmount (String.ofList (ds.map fun d => "0123456789".toList.getD d.val '0')) =
      some (Nat.ofDigits 10 (ds.map Fin.val).reverse)) ∧
  (∀ ds : List (Fin 16 × Bool), ds ≠ [] →
    parseAmount (String.ofList ('0' :: 'x' :: ds.map fun d =>
        (if d.2 = true then "0123456789ABCDEF" else "0123456789abcdef").toList.getD d.1.val '0')) =
      some (Nat.ofDigits 16 (ds.map fun d => d.1.val).reverse)) ∧
  (∀ text : String,
    ¬ (text.toList ≠ [] ∧ ∀ c ∈ text.toList, c ∈ "0123456789".toList) →
    ¬ (∃ cs, text.toList = '0' :: 'x' :: cs ∧ cs ≠ [] ∧
      ∀ c ∈ cs, c ∈ "0123456789ABCDEFabcdef".toList) →
    parseAmount text = none ∧ parseStmt "SET_DELAY" [text] = .error .badOperands) ∧
  ∀ (text : String) (n : Nat), parseAmount text = some n →
    parseStmt "SET_DELAY" [text] = .ok (.setDelay n) ∧
    (n ≤ 65535 → expand (.setDelay n) = .ok (.setDelay (BitVec.ofNat 16 n))) ∧
    (65535 < n → expand (.setDelay n) = .error .amountOutOfRange)
end

