-- ==== Sys2Proof/Laws/Assembler.lean ====
section
/-! SUPPORT. What the assembler's reading of a numeral can do, said once. -/

namespace Sys2Proof.Machine

/-- The character that stands for a digit of the capital row has that digit's value. -/
theorem digitValue_capital : ∀ d : Fin 16,
    digitValue (capitalDigits.getD d.val '0') = some d.val := by decide

/-- The character that stands for a digit of the small row has that digit's value. -/
theorem digitValue_small : ∀ d : Fin 16,
    digitValue (smallDigits.getD d.val '0') = some d.val := by decide

/-- Every character of the two rows is a digit, and one with a value below 10 a decimal digit. -/
theorem digits_all : ((capitalDigits ++ smallDigits).all fun c =>
    "0123456789ABCDEFabcdef".toList.contains c &&
      (decide (10 ≤ (digitValue c).getD 10) || "0123456789".toList.contains c)) = true := by
  decide

/-- So is every character with a value. -/
theorem mem_of_digitValue {c : Char} {v : Nat} (h : digitValue c = some v) :
    c ∈ "0123456789ABCDEFabcdef".toList ∧ (v < 10 → c ∈ "0123456789".toList) := by
  have place : c ∈ capitalDigits ++ smallDigits := by
    rw [List.mem_append]
    by_contra hn
    rw [not_or] at hn
    rw [digitValue, List.idxOf?_eq_none_iff.2 hn.1, List.idxOf?_eq_none_iff.2 hn.2] at h
    cases h
  have both := List.all_eq_true.1 digits_all c place
  rw [h, Option.getD_some, Bool.and_eq_true, Bool.or_eq_true, decide_eq_true_iff, List.contains_iff_mem,
    List.contains_iff_mem] at both
  exact ⟨both.1, fun hv => both.2.resolve_left (by omega)⟩

/-- Everything the reading of a numeral can do: it answers exactly when every character is a digit of the
base, and then with the digits' value, the most significant first (R89). -/
theorem parseDigits_eq_some_iff (base acc n : Nat) (cs : List Char) :
    parseDigits base acc cs = some n ↔
      ∃ ds : List Nat, cs.map digitValue = ds.map some ∧ (∀ d ∈ ds, d < base) ∧
        n = Nat.ofDigits base ds.reverse + acc * base ^ ds.length := by
  induction cs generalizing acc with
  | nil =>
    constructor
    · intro h
      cases h
      exact ⟨[], by simp⟩
    · rintro ⟨_ | ⟨d, ds⟩, h, -, rfl⟩
      · simp [parseDigits]
      · simp at h
  | cons c cs ih =>
    cases hc : digitValue c with
    | none =>
      simp only [parseDigits, hc, List.map_cons, reduceCtorEq, false_iff]
      rintro ⟨_ | ⟨d, ds⟩, h, -⟩ <;> simp at h
    | some v =>
      by_cases hv : v < base
      · simp only [parseDigits, hc, hv, if_true, ih, List.map_cons]
        constructor
        · rintro ⟨ds, h, hlt, rfl⟩
          refine ⟨v :: ds, by simp [h], by simpa [hv] using hlt, ?_⟩
          simp [Nat.ofDigits_append, pow_succ]
          ring
        · rintro ⟨_ | ⟨d, ds⟩, h, hlt, rfl⟩
          · simp at h
          · simp only [List.map_cons, List.cons.injEq, Option.some.injEq] at h
            obtain ⟨rfl, h⟩ := h
            refine ⟨ds, h, fun x hx => hlt x (by simp [hx]), ?_⟩
            simp [Nat.ofDigits_append, pow_succ]
            ring
      · simp only [parseDigits, hc, hv, if_false, reduceCtorEq, false_iff]
        rintro ⟨_ | ⟨d, ds⟩, h, hlt, -⟩
        · simp at h
        · obtain rfl : v = d := by simpa [hc] using (List.cons.inj h).1
          exact hv (hlt v (by simp))

/-- An amount after `0x` is a numeral of base 16 (R89). -/
theorem parseAmount_of_prefix {text : String} {cs : List Char} (h : text.toList = '0' :: 'x' :: cs)
    (hne : cs ≠ []) : parseAmount text = parseDigits 16 0 cs := by
  unfold parseAmount; rw [h]; cases cs <;> simp_all

/-- An amount without `0x` is a numeral of base 10 (R89). -/
theorem parseAmount_of_no_prefix {text : String} (hne : text.toList ≠ [])
    (h : ¬ ∃ cs, text.toList = '0' :: 'x' :: cs) : parseAmount text = parseDigits 10 0 text.toList := by
  unfold parseAmount; split <;> simp_all

end Sys2Proof.Machine
end

