-- ==== Sys2Proof/Laws/Decode.lean ====
section
/-! SUPPORT. The fields of an encoded word, and that a decoded word was selected by a row. -/

namespace Sys2Proof

@[simp] theorem slotOfBit_slotBit (m : MotorSlot) : slotOfBit ((slotBit m).getLsbD 0) = m := by
  cases m <;> rfl

@[simp] theorem directionOfBit_directionBit (d : Direction) :
    directionOfBit ((directionBit d).getLsbD 0) = d := by
  cases d <;> rfl

/-- A legal word is selected by the row of its command (R83). -/
theorem selected_of_decode {w : CommandWord} {i : Instr} (h : decode w = .ok i) :
    (i = .nop ∧ rowNop.selects w = true) ∨
    (i = .step (slotField w) (directionField w) ∧ rowStep.selects w = true) ∨
    (i = .setDelay (amountField w) ∧ rowSetDelay.selects w = true) ∨
    (i = .stopAll ∧ rowStopAll.selects w = true) ∨
    (i = .stopMotor (slotField w) ∧ rowStopMotor.selects w = true) := by
  unfold decode at h
  repeat' split at h
  all_goals simp_all

/-- The bits of a packed word, field by field (R81). -/
theorem getLsbD_packWord (op : BitVec 3) (m d : BitVec 1) (a : Amount) (k : Nat) :
    (packWord op m d a).getLsbD k =
      if k < 16 then a.getLsbD k
      else if k < 19 then false
      else if k < 20 then d.getLsbD (k - 19)
      else if k < 21 then m.getLsbD (k - 20)
      else op.getLsbD (k - 21) := by
  change BitVec.getLsbD (w := 3 + 1 + 1 + 3 + 16) (op ++ m ++ d ++ (0 : BitVec 3) ++ a) k = _
  simp only [BitVec.getLsbD_append]
  by_cases h1 : k < 16
  · simp [h1]
  by_cases h2 : k < 19
  · have : k - 16 < 3 := by omega
    simp [h1, h2, this]
  by_cases h3 : k < 20
  · have e1 : ¬ k - 16 < 3 := by omega
    have e2 : k - 16 - 3 < 1 := by omega
    have e3 : k - 16 - 3 = k - 19 := by omega
    rw [if_neg h1, if_neg e1, if_pos e2, if_neg h1, if_neg h2, if_pos h3, e3]
  have e1 : ¬ k - 16 < 3 := by omega
  have e2 : ¬ k - 16 - 3 < 1 := by omega
  have e3 : k - 16 - 3 - 1 = k - 20 := by omega
  have e4 : k - 20 - 1 = k - 21 := by omega
  rw [if_neg h1, if_neg e1, if_neg e2, if_neg h1, if_neg h2, if_neg h3, e3, e4]
  by_cases h4 : k < 21
  · rw [if_pos (by omega), if_pos h4]
  · rw [if_neg (by omega), if_neg h4]

/-- The field `op` of a packed word (R81). -/
@[simp] theorem opField_packWord (op : BitVec 3) (m d : BitVec 1) (a : Amount) :
    opField (packWord op m d a) = op := by
  apply BitVec.eq_of_getLsbD_eq
  intro k hk
  rw [opField, BitVec.getLsbD_extractLsb', getLsbD_packWord, if_neg (by omega), if_neg (by omega),
    if_neg (by omega), if_neg (by omega)]
  simp [hk]

/-- The field `z` of a packed word is 000 (R81). -/
@[simp] theorem zField_packWord (op : BitVec 3) (m d : BitVec 1) (a : Amount) :
    zField (packWord op m d a) = 0 := by
  apply BitVec.eq_of_getLsbD_eq
  intro k hk
  rw [zField, BitVec.getLsbD_extractLsb', getLsbD_packWord, if_neg (by omega), if_pos (by omega)]
  simp

/-- The field `amount` of a packed word (R81, R85). -/
@[simp] theorem amountField_packWord (op : BitVec 3) (m d : BitVec 1) (a : Amount) :
    amountField (packWord op m d a) = a := by
  apply BitVec.eq_of_getLsbD_eq
  intro k hk
  rw [amountField, BitVec.getLsbD_extractLsb', getLsbD_packWord, if_pos (by omega)]
  simp [hk]

/-- The field `m` of a packed word (R84). -/
@[simp] theorem slotField_packWord (op : BitVec 3) (m : MotorSlot) (d : BitVec 1) (a : Amount) :
    slotField (packWord op (slotBit m) d a) = m := by
  rw [slotField, getLsbD_packWord]; cases m <;> rfl

/-- The field `d` of a packed word (R84). -/
@[simp] theorem directionField_packWord (op : BitVec 3) (m : BitVec 1) (d : Direction) (a : Amount) :
    directionField (packWord op m (directionBit d) a) = d := by
  rw [directionField, getLsbD_packWord]; cases d <;> rfl

/-- A row whose mask covers `op` selects only words of its own `op` (R83: the rows "differ in `op`"). -/
theorem opField_of_selects {r : OpcodeRow} {w : CommandWord} (hm : opField r.mask = 7)
    (h : r.selects w = true) : opField w = opField r.value := by
  have h' : w &&& r.mask = r.value := by simpa [OpcodeRow.selects] using h
  have h7 : ∀ x : BitVec 3, x &&& 7#3 = x := by decide
  rw [← h', opField, opField, BitVec.extractLsb'_and]
  simp only [opField] at hm
  rw [hm]; exact (h7 _).symm

/-- A SET_DELAY word is selected by its row, whatever the amount (R83). -/
theorem setDelay_selected (a : Amount) : rowSetDelay.selects (encode (.setDelay a)) = true := by
  have h : (0x40#8 ++ a) &&& (0xFF#8 ++ 0#16) = 0x40#8 ++ 0#16 := by
    rw [BitVec.and_append]; simp
  have h2 : encode (.setDelay a) = 0x40#8 ++ a := by
    apply BitVec.eq_of_getLsbD_eq
    intro k hk
    rw [encode, getLsbD_packWord, BitVec.getLsbD_append]
    by_cases h1 : k < 16
    · simp [h1]
    · interval_cases k <;> first | omega | rfl
  simpa [OpcodeRow.selects, rowSetDelay, h2] using h

end Sys2Proof
end

