-- ==== Sys2Proof/Laws/State.lean ====
section
/-! SUPPORT. One lemma per field per update of `State`, each true by unfolding the update, so that no proof
unfolds a record update: `State.<update>_<field>`. -/

namespace Sys2Proof.Machine

variable (s : State)

/-! ### driveLatch -/

@[simp] theorem State.driveLatch_cfg (level : BitVec 1) : (s.driveLatch level).cfg = s.cfg := rfl
@[simp] theorem State.driveLatch_phase0 (level : BitVec 1) :
    (s.driveLatch level).phase0 = s.phase0 := rfl
@[simp] theorem State.driveLatch_phase1 (level : BitVec 1) :
    (s.driveLatch level).phase1 = s.phase1 := rfl
@[simp] theorem State.driveLatch_deadline0 (level : BitVec 1) :
    (s.driveLatch level).deadline0 = s.deadline0 := rfl
@[simp] theorem State.driveLatch_deadline1 (level : BitVec 1) :
    (s.driveLatch level).deadline1 = s.deadline1 := rfl
@[simp] theorem State.driveLatch_delay (level : BitVec 1) :
    (s.driveLatch level).delay = s.delay := rfl
@[simp] theorem State.driveLatch_lastByte (level : BitVec 1) :
    (s.driveLatch level).lastByte = s.lastByte := rfl
@[simp] theorem State.driveLatch_latch (level : BitVec 1) :
    (s.driveLatch level).latch = level := rfl
@[simp] theorem State.driveLatch_resp (level : BitVec 1) : (s.driveLatch level).resp = s.resp := rfl
@[simp] theorem State.driveLatch_now (level : BitVec 1) : (s.driveLatch level).now = s.now := rfl
@[simp] theorem State.driveLatch_inputs (level : BitVec 1) :
    (s.driveLatch level).inputs = s.inputs := rfl
@[simp] theorem State.driveLatch_outputs (level : BitVec 1) :
    (s.driveLatch level).outputs = s.outputs ++ [.latch level] := rfl
@[simp] theorem State.driveLatch_responses (level : BitVec 1) :
    (s.driveLatch level).responses = s.responses := rfl
@[simp] theorem State.driveLatch_illegals (level : BitVec 1) :
    (s.driveLatch level).illegals = s.illegals := rfl

/-! ### serialShift -/

@[simp] theorem State.serialShift_cfg (b : Byte) : (s.serialShift b).cfg = s.cfg := rfl
@[simp] theorem State.serialShift_phase0 (b : Byte) : (s.serialShift b).phase0 = s.phase0 := rfl
@[simp] theorem State.serialShift_phase1 (b : Byte) : (s.serialShift b).phase1 = s.phase1 := rfl
@[simp] theorem State.serialShift_deadline0 (b : Byte) :
    (s.serialShift b).deadline0 = s.deadline0 := rfl
@[simp] theorem State.serialShift_deadline1 (b : Byte) :
    (s.serialShift b).deadline1 = s.deadline1 := rfl
@[simp] theorem State.serialShift_delay (b : Byte) : (s.serialShift b).delay = s.delay := rfl
@[simp] theorem State.serialShift_lastByte (b : Byte) :
    (s.serialShift b).lastByte = s.lastByte := rfl
@[simp] theorem State.serialShift_latch (b : Byte) : (s.serialShift b).latch = s.latch := rfl
@[simp] theorem State.serialShift_resp (b : Byte) : (s.serialShift b).resp = s.resp := rfl
@[simp] theorem State.serialShift_now (b : Byte) : (s.serialShift b).now = s.now := rfl
@[simp] theorem State.serialShift_inputs (b : Byte) : (s.serialShift b).inputs = s.inputs := rfl
@[simp] theorem State.serialShift_outputs (b : Byte) :
    (s.serialShift b).outputs = s.outputs ++ [.tx b] := rfl
@[simp] theorem State.serialShift_responses (b : Byte) :
    (s.serialShift b).responses = s.responses := rfl
@[simp] theorem State.serialShift_illegals (b : Byte) :
    (s.serialShift b).illegals = s.illegals := rfl

/-! ### setLastByte -/

@[simp] theorem State.setLastByte_cfg (b : Byte) : (s.setLastByte b).cfg = s.cfg := rfl
@[simp] theorem State.setLastByte_phase0 (b : Byte) : (s.setLastByte b).phase0 = s.phase0 := rfl
@[simp] theorem State.setLastByte_phase1 (b : Byte) : (s.setLastByte b).phase1 = s.phase1 := rfl
@[simp] theorem State.setLastByte_deadline0 (b : Byte) :
    (s.setLastByte b).deadline0 = s.deadline0 := rfl
@[simp] theorem State.setLastByte_deadline1 (b : Byte) :
    (s.setLastByte b).deadline1 = s.deadline1 := rfl
@[simp] theorem State.setLastByte_delay (b : Byte) : (s.setLastByte b).delay = s.delay := rfl
@[simp] theorem State.setLastByte_lastByte (b : Byte) : (s.setLastByte b).lastByte = b := rfl
@[simp] theorem State.setLastByte_latch (b : Byte) : (s.setLastByte b).latch = s.latch := rfl
@[simp] theorem State.setLastByte_resp (b : Byte) : (s.setLastByte b).resp = s.resp := rfl
@[simp] theorem State.setLastByte_now (b : Byte) : (s.setLastByte b).now = s.now := rfl
@[simp] theorem State.setLastByte_inputs (b : Byte) : (s.setLastByte b).inputs = s.inputs := rfl
@[simp] theorem State.setLastByte_outputs (b : Byte) : (s.setLastByte b).outputs = s.outputs := rfl
@[simp] theorem State.setLastByte_responses (b : Byte) :
    (s.setLastByte b).responses = s.responses := rfl
@[simp] theorem State.setLastByte_illegals (b : Byte) :
    (s.setLastByte b).illegals = s.illegals := rfl

/-! ### transmit -/

@[simp] theorem State.transmit_cfg (b : Byte) : (s.transmit b).cfg = s.cfg := rfl
@[simp] theorem State.transmit_phase0 (b : Byte) : (s.transmit b).phase0 = s.phase0 := rfl
@[simp] theorem State.transmit_phase1 (b : Byte) : (s.transmit b).phase1 = s.phase1 := rfl
@[simp] theorem State.transmit_deadline0 (b : Byte) : (s.transmit b).deadline0 = s.deadline0 := rfl
@[simp] theorem State.transmit_deadline1 (b : Byte) : (s.transmit b).deadline1 = s.deadline1 := rfl
@[simp] theorem State.transmit_delay (b : Byte) : (s.transmit b).delay = s.delay := rfl
@[simp] theorem State.transmit_lastByte (b : Byte) : (s.transmit b).lastByte = b := rfl
@[simp] theorem State.transmit_latch (b : Byte) : (s.transmit b).latch = 1 := rfl
@[simp] theorem State.transmit_resp (b : Byte) : (s.transmit b).resp = s.resp := rfl
@[simp] theorem State.transmit_now (b : Byte) : (s.transmit b).now = s.now := rfl
@[simp] theorem State.transmit_inputs (b : Byte) : (s.transmit b).inputs = s.inputs := rfl
@[simp] theorem State.transmit_responses (b : Byte) : (s.transmit b).responses = s.responses := rfl
@[simp] theorem State.transmit_illegals (b : Byte) : (s.transmit b).illegals = s.illegals := rfl
@[simp] theorem State.transmit_outputs (b : Byte) :
    (s.transmit b).outputs = s.outputs ++ [.latch 0, .tx b, .latch 1] := by
  simp [State.transmit]

/-! ### respond -/

@[simp] theorem State.respond_cfg (r : Response) : (s.respond r).cfg = s.cfg := rfl
@[simp] theorem State.respond_phase0 (r : Response) : (s.respond r).phase0 = s.phase0 := rfl
@[simp] theorem State.respond_phase1 (r : Response) : (s.respond r).phase1 = s.phase1 := rfl
@[simp] theorem State.respond_deadline0 (r : Response) :
    (s.respond r).deadline0 = s.deadline0 := rfl
@[simp] theorem State.respond_deadline1 (r : Response) :
    (s.respond r).deadline1 = s.deadline1 := rfl
@[simp] theorem State.respond_delay (r : Response) : (s.respond r).delay = s.delay := rfl
@[simp] theorem State.respond_lastByte (r : Response) : (s.respond r).lastByte = s.lastByte := rfl
@[simp] theorem State.respond_latch (r : Response) : (s.respond r).latch = s.latch := rfl
@[simp] theorem State.respond_resp (r : Response) : (s.respond r).resp = r := rfl
@[simp] theorem State.respond_now (r : Response) : (s.respond r).now = s.now := rfl
@[simp] theorem State.respond_inputs (r : Response) : (s.respond r).inputs = s.inputs := rfl
@[simp] theorem State.respond_outputs (r : Response) : (s.respond r).outputs = s.outputs := rfl
@[simp] theorem State.respond_responses (r : Response) :
    (s.respond r).responses = s.responses ++ [r] := rfl
@[simp] theorem State.respond_illegals (r : Response) : (s.respond r).illegals = s.illegals := rfl

/-! ### setDelay -/

@[simp] theorem State.setDelay_cfg (v : DelayReg) : (s.setDelay v).cfg = s.cfg := rfl
@[simp] theorem State.setDelay_phase0 (v : DelayReg) : (s.setDelay v).phase0 = s.phase0 := rfl
@[simp] theorem State.setDelay_phase1 (v : DelayReg) : (s.setDelay v).phase1 = s.phase1 := rfl
@[simp] theorem State.setDelay_deadline0 (v : DelayReg) :
    (s.setDelay v).deadline0 = s.deadline0 := rfl
@[simp] theorem State.setDelay_deadline1 (v : DelayReg) :
    (s.setDelay v).deadline1 = s.deadline1 := rfl
@[simp] theorem State.setDelay_delay (v : DelayReg) : (s.setDelay v).delay = v := rfl
@[simp] theorem State.setDelay_lastByte (v : DelayReg) : (s.setDelay v).lastByte = s.lastByte := rfl
@[simp] theorem State.setDelay_latch (v : DelayReg) : (s.setDelay v).latch = s.latch := rfl
@[simp] theorem State.setDelay_resp (v : DelayReg) : (s.setDelay v).resp = s.resp := rfl
@[simp] theorem State.setDelay_now (v : DelayReg) : (s.setDelay v).now = s.now := rfl
@[simp] theorem State.setDelay_inputs (v : DelayReg) : (s.setDelay v).inputs = s.inputs := rfl
@[simp] theorem State.setDelay_outputs (v : DelayReg) : (s.setDelay v).outputs = s.outputs := rfl
@[simp] theorem State.setDelay_responses (v : DelayReg) :
    (s.setDelay v).responses = s.responses := rfl
@[simp] theorem State.setDelay_illegals (v : DelayReg) : (s.setDelay v).illegals = s.illegals := rfl

/-! ### setPhase -/

@[simp] theorem State.setPhase_cfg (m : MotorSlot) (v : Phase) : (s.setPhase m v).cfg = s.cfg := rfl
@[simp] theorem State.setPhase_phase0 (m : MotorSlot) (v : Phase) :
    (s.setPhase m v).phase0 = if m = .a then v else s.phase0 := rfl
@[simp] theorem State.setPhase_phase1 (m : MotorSlot) (v : Phase) :
    (s.setPhase m v).phase1 = if m = .b then v else s.phase1 := rfl
@[simp] theorem State.setPhase_deadline0 (m : MotorSlot) (v : Phase) :
    (s.setPhase m v).deadline0 = s.deadline0 := rfl
@[simp] theorem State.setPhase_deadline1 (m : MotorSlot) (v : Phase) :
    (s.setPhase m v).deadline1 = s.deadline1 := rfl
@[simp] theorem State.setPhase_delay (m : MotorSlot) (v : Phase) :
    (s.setPhase m v).delay = s.delay := rfl
@[simp] theorem State.setPhase_lastByte (m : MotorSlot) (v : Phase) :
    (s.setPhase m v).lastByte = s.lastByte := rfl
@[simp] theorem State.setPhase_latch (m : MotorSlot) (v : Phase) :
    (s.setPhase m v).latch = s.latch := rfl
@[simp] theorem State.setPhase_resp (m : MotorSlot) (v : Phase) :
    (s.setPhase m v).resp = s.resp := rfl
@[simp] theorem State.setPhase_now (m : MotorSlot) (v : Phase) : (s.setPhase m v).now = s.now := rfl
@[simp] theorem State.setPhase_inputs (m : MotorSlot) (v : Phase) :
    (s.setPhase m v).inputs = s.inputs := rfl
@[simp] theorem State.setPhase_outputs (m : MotorSlot) (v : Phase) :
    (s.setPhase m v).outputs = s.outputs := rfl
@[simp] theorem State.setPhase_responses (m : MotorSlot) (v : Phase) :
    (s.setPhase m v).responses = s.responses := rfl
@[simp] theorem State.setPhase_illegals (m : MotorSlot) (v : Phase) :
    (s.setPhase m v).illegals = s.illegals := rfl

/-! ### setDeadline -/

@[simp] theorem State.setDeadline_cfg (m : MotorSlot) (v : BitVec s.cfg.tickW) :
    (s.setDeadline m v).cfg = s.cfg := rfl
@[simp] theorem State.setDeadline_phase0 (m : MotorSlot) (v : BitVec s.cfg.tickW) :
    (s.setDeadline m v).phase0 = s.phase0 := rfl
@[simp] theorem State.setDeadline_phase1 (m : MotorSlot) (v : BitVec s.cfg.tickW) :
    (s.setDeadline m v).phase1 = s.phase1 := rfl
@[simp] theorem State.setDeadline_deadline0 (m : MotorSlot) (v : BitVec s.cfg.tickW) :
    (s.setDeadline m v).deadline0 = if m = .a then v else s.deadline0 := rfl
@[simp] theorem State.setDeadline_deadline1 (m : MotorSlot) (v : BitVec s.cfg.tickW) :
    (s.setDeadline m v).deadline1 = if m = .b then v else s.deadline1 := rfl
@[simp] theorem State.setDeadline_delay (m : MotorSlot) (v : BitVec s.cfg.tickW) :
    (s.setDeadline m v).delay = s.delay := rfl
@[simp] theorem State.setDeadline_lastByte (m : MotorSlot) (v : BitVec s.cfg.tickW) :
    (s.setDeadline m v).lastByte = s.lastByte := rfl
@[simp] theorem State.setDeadline_latch (m : MotorSlot) (v : BitVec s.cfg.tickW) :
    (s.setDeadline m v).latch = s.latch := rfl
@[simp] theorem State.setDeadline_resp (m : MotorSlot) (v : BitVec s.cfg.tickW) :
    (s.setDeadline m v).resp = s.resp := rfl
@[simp] theorem State.setDeadline_now (m : MotorSlot) (v : BitVec s.cfg.tickW) :
    (s.setDeadline m v).now = s.now := rfl
@[simp] theorem State.setDeadline_inputs (m : MotorSlot) (v : BitVec s.cfg.tickW) :
    (s.setDeadline m v).inputs = s.inputs := rfl
@[simp] theorem State.setDeadline_outputs (m : MotorSlot) (v : BitVec s.cfg.tickW) :
    (s.setDeadline m v).outputs = s.outputs := rfl
@[simp] theorem State.setDeadline_responses (m : MotorSlot) (v : BitVec s.cfg.tickW) :
    (s.setDeadline m v).responses = s.responses := rfl
@[simp] theorem State.setDeadline_illegals (m : MotorSlot) (v : BitVec s.cfg.tickW) :
    (s.setDeadline m v).illegals = s.illegals := rfl

/-! ### raiseIllegalCommand -/

@[simp] theorem State.raiseIllegalCommand_cfg (w : CommandWord) :
    (s.raiseIllegalCommand w).cfg = s.cfg := rfl
@[simp] theorem State.raiseIllegalCommand_phase0 (w : CommandWord) :
    (s.raiseIllegalCommand w).phase0 = s.phase0 := rfl
@[simp] theorem State.raiseIllegalCommand_phase1 (w : CommandWord) :
    (s.raiseIllegalCommand w).phase1 = s.phase1 := rfl
@[simp] theorem State.raiseIllegalCommand_deadline0 (w : CommandWord) :
    (s.raiseIllegalCommand w).deadline0 = s.deadline0 := rfl
@[simp] theorem State.raiseIllegalCommand_deadline1 (w : CommandWord) :
    (s.raiseIllegalCommand w).deadline1 = s.deadline1 := rfl
@[simp] theorem State.raiseIllegalCommand_delay (w : CommandWord) :
    (s.raiseIllegalCommand w).delay = s.delay := rfl
@[simp] theorem State.raiseIllegalCommand_lastByte (w : CommandWord) :
    (s.raiseIllegalCommand w).lastByte = s.lastByte := rfl
@[simp] theorem State.raiseIllegalCommand_latch (w : CommandWord) :
    (s.raiseIllegalCommand w).latch = s.latch := rfl
@[simp] theorem State.raiseIllegalCommand_resp (w : CommandWord) :
    (s.raiseIllegalCommand w).resp = respIllegal := rfl
@[simp] theorem State.raiseIllegalCommand_now (w : CommandWord) :
    (s.raiseIllegalCommand w).now = s.now := rfl
@[simp] theorem State.raiseIllegalCommand_inputs (w : CommandWord) :
    (s.raiseIllegalCommand w).inputs = s.inputs := rfl
@[simp] theorem State.raiseIllegalCommand_outputs (w : CommandWord) :
    (s.raiseIllegalCommand w).outputs = s.outputs := rfl
@[simp] theorem State.raiseIllegalCommand_responses (w : CommandWord) :
    (s.raiseIllegalCommand w).responses = s.responses ++ [respIllegal] := rfl
@[simp] theorem State.raiseIllegalCommand_illegals (w : CommandWord) :
    (s.raiseIllegalCommand w).illegals = s.illegals ++ [{ cause := Config.illegalCommandCause, word := w }] := rfl

/-! ### accept -/

@[simp] theorem State.accept_cfg (tick : BitVec s.cfg.tickW) (rest : List (HostInput s.cfg.tickW)) :
    (s.accept tick rest).cfg = s.cfg := rfl
@[simp] theorem State.accept_phase0 (tick : BitVec s.cfg.tickW) (rest : List (HostInput s.cfg.tickW)) :
    (s.accept tick rest).phase0 = s.phase0 := rfl
@[simp] theorem State.accept_phase1 (tick : BitVec s.cfg.tickW) (rest : List (HostInput s.cfg.tickW)) :
    (s.accept tick rest).phase1 = s.phase1 := rfl
@[simp] theorem State.accept_deadline0 (tick : BitVec s.cfg.tickW) (rest : List (HostInput s.cfg.tickW)) :
    (s.accept tick rest).deadline0 = s.deadline0 := rfl
@[simp] theorem State.accept_deadline1 (tick : BitVec s.cfg.tickW) (rest : List (HostInput s.cfg.tickW)) :
    (s.accept tick rest).deadline1 = s.deadline1 := rfl
@[simp] theorem State.accept_delay (tick : BitVec s.cfg.tickW) (rest : List (HostInput s.cfg.tickW)) :
    (s.accept tick rest).delay = s.delay := rfl
@[simp] theorem State.accept_lastByte (tick : BitVec s.cfg.tickW) (rest : List (HostInput s.cfg.tickW)) :
    (s.accept tick rest).lastByte = s.lastByte := rfl
@[simp] theorem State.accept_latch (tick : BitVec s.cfg.tickW) (rest : List (HostInput s.cfg.tickW)) :
    (s.accept tick rest).latch = s.latch := rfl
@[simp] theorem State.accept_resp (tick : BitVec s.cfg.tickW) (rest : List (HostInput s.cfg.tickW)) :
    (s.accept tick rest).resp = s.resp := rfl
@[simp] theorem State.accept_now (tick : BitVec s.cfg.tickW) (rest : List (HostInput s.cfg.tickW)) :
    (s.accept tick rest).now = tick := rfl
@[simp] theorem State.accept_inputs (tick : BitVec s.cfg.tickW) (rest : List (HostInput s.cfg.tickW)) :
    (s.accept tick rest).inputs = rest := rfl
@[simp] theorem State.accept_outputs (tick : BitVec s.cfg.tickW) (rest : List (HostInput s.cfg.tickW)) :
    (s.accept tick rest).outputs = s.outputs := rfl
@[simp] theorem State.accept_responses (tick : BitVec s.cfg.tickW) (rest : List (HostInput s.cfg.tickW)) :
    (s.accept tick rest).responses = s.responses := rfl
@[simp] theorem State.accept_illegals (tick : BitVec s.cfg.tickW) (rest : List (HostInput s.cfg.tickW)) :
    (s.accept tick rest).illegals = s.illegals := rfl

/-! ### resetBlock -/

@[simp] theorem State.resetBlock_cfg (tick : BitVec s.cfg.tickW) :
    (s.resetBlock tick).cfg = s.cfg := rfl
@[simp] theorem State.resetBlock_phase0 (tick : BitVec s.cfg.tickW) :
    (s.resetBlock tick).phase0 = 0 := rfl
@[simp] theorem State.resetBlock_phase1 (tick : BitVec s.cfg.tickW) :
    (s.resetBlock tick).phase1 = 0 := rfl
@[simp] theorem State.resetBlock_deadline0 (tick : BitVec s.cfg.tickW) :
    (s.resetBlock tick).deadline0 = tick := rfl
@[simp] theorem State.resetBlock_deadline1 (tick : BitVec s.cfg.tickW) :
    (s.resetBlock tick).deadline1 = tick := rfl
@[simp] theorem State.resetBlock_delay (tick : BitVec s.cfg.tickW) :
    (s.resetBlock tick).delay = s.cfg.delayReset := rfl
@[simp] theorem State.resetBlock_lastByte (tick : BitVec s.cfg.tickW) :
    (s.resetBlock tick).lastByte = 0x00 := rfl
@[simp] theorem State.resetBlock_latch (tick : BitVec s.cfg.tickW) :
    (s.resetBlock tick).latch = 1 := rfl
@[simp] theorem State.resetBlock_resp (tick : BitVec s.cfg.tickW) :
    (s.resetBlock tick).resp = respPlain := rfl
@[simp] theorem State.resetBlock_now (tick : BitVec s.cfg.tickW) :
    (s.resetBlock tick).now = tick := rfl
@[simp] theorem State.resetBlock_inputs (tick : BitVec s.cfg.tickW) :
    (s.resetBlock tick).inputs = s.inputs := rfl
@[simp] theorem State.resetBlock_outputs (tick : BitVec s.cfg.tickW) :
    (s.resetBlock tick).outputs = s.outputs ++ [.latch 1, .busBegin] := rfl
@[simp] theorem State.resetBlock_responses (tick : BitVec s.cfg.tickW) :
    (s.resetBlock tick).responses = s.responses := rfl
@[simp] theorem State.resetBlock_illegals (tick : BitVec s.cfg.tickW) :
    (s.resetBlock tick).illegals = s.illegals := rfl

end Sys2Proof.Machine
end

