-- ==== Sys2Proof/Laws/Ops.lean ====
section
/-! SUPPORT. One lemma per shared operation and per meaning that says once everything it does; later
proofs cite these and do not unfold the operation. -/

namespace Sys2Proof.Machine

/-- Everything `Transmit(b)` does (R62). -/
theorem State.transmit_spec (s : State) (b : Byte) :
    ∃ out, out = s.outputs ++ [.latch 0, .tx b, .latch 1] ∧
      s.transmit b = { s with latch := 1, lastByte := b, outputs := out } := by
  refine ⟨_, rfl, ?_⟩
  simp [State.transmit, State.driveLatch, State.serialShift, State.setLastByte]

/-- The accessors of a slot after a write of that slot (R32, R33). -/
@[simp] theorem State.setPhase_phase (s : State) (m : MotorSlot) (v : Phase) :
    (s.setPhase m v).phase m = v := by
  cases m <;> simp [State.phase]

/-- A write of one slot's phase keeps the other's (R34). -/
theorem State.setPhase_phase_ne (s : State) {m k : MotorSlot} (v : Phase) (h : k ≠ m) :
    (s.setPhase m v).phase k = s.phase k := by
  cases m <;> cases k <;> simp_all [State.phase]

/-! ### The slot accessors after each update -/

section

variable (s : State) (m : MotorSlot)

@[simp] theorem State.driveLatch_phase (level : BitVec 1) :
    (s.driveLatch level).phase m = s.phase m := by
  cases m <;> rfl

@[simp] theorem State.driveLatch_deadline (level : BitVec 1) :
    (s.driveLatch level).deadline m = s.deadline m := by
  cases m <;> rfl

@[simp] theorem State.serialShift_phase (b : Byte) :
    (s.serialShift b).phase m = s.phase m := by
  cases m <;> rfl

@[simp] theorem State.serialShift_deadline (b : Byte) :
    (s.serialShift b).deadline m = s.deadline m := by
  cases m <;> rfl

@[simp] theorem State.setLastByte_phase (b : Byte) :
    (s.setLastByte b).phase m = s.phase m := by
  cases m <;> rfl

@[simp] theorem State.setLastByte_deadline (b : Byte) :
    (s.setLastByte b).deadline m = s.deadline m := by
  cases m <;> rfl

@[simp] theorem State.transmit_phase (b : Byte) :
    (s.transmit b).phase m = s.phase m := by
  cases m <;> rfl

@[simp] theorem State.transmit_deadline (b : Byte) :
    (s.transmit b).deadline m = s.deadline m := by
  cases m <;> rfl

@[simp] theorem State.respond_phase (r : Response) :
    (s.respond r).phase m = s.phase m := by
  cases m <;> rfl

@[simp] theorem State.respond_deadline (r : Response) :
    (s.respond r).deadline m = s.deadline m := by
  cases m <;> rfl

@[simp] theorem State.setDelay_phase (v : DelayReg) :
    (s.setDelay v).phase m = s.phase m := by
  cases m <;> rfl

@[simp] theorem State.setDelay_deadline (v : DelayReg) :
    (s.setDelay v).deadline m = s.deadline m := by
  cases m <;> rfl

@[simp] theorem State.raiseIllegalCommand_phase (w : CommandWord) :
    (s.raiseIllegalCommand w).phase m = s.phase m := by
  cases m <;> rfl

@[simp] theorem State.raiseIllegalCommand_deadline (w : CommandWord) :
    (s.raiseIllegalCommand w).deadline m = s.deadline m := by
  cases m <;> rfl

@[simp] theorem State.accept_phase (tick : BitVec s.cfg.tickW) (rest : List (HostInput s.cfg.tickW)) :
    (s.accept tick rest).phase m = s.phase m := by
  cases m <;> rfl

@[simp] theorem State.accept_deadline (tick : BitVec s.cfg.tickW) (rest : List (HostInput s.cfg.tickW)) :
    (s.accept tick rest).deadline m = s.deadline m := by
  cases m <;> rfl

@[simp] theorem State.resetBlock_phase (tick : BitVec s.cfg.tickW) :
    (s.resetBlock tick).phase m = 0 := by
  cases m <;> rfl

@[simp] theorem State.resetBlock_deadline (tick : BitVec s.cfg.tickW) :
    (s.resetBlock tick).deadline m = tick := by
  cases m <;> rfl

end

/-- The byte a STEP of slot `m` sends when it fires (R130: the phase before the advance). -/
def State.stepByte (s : State) (m : MotorSlot) : Byte :=
  nibbleMux s.cfg.composeMode m (drivePattern (s.phase m)) s.lastByte

/-- Everything a fired STEP does (R128), as one record. -/
theorem State.fire_spec (s : State) (m : MotorSlot) (d : Direction) :
    s.fire m d =
      { s with
        phase0 := if m = .a then nextPhase s.phase0 d else s.phase0
        phase1 := if m = .b then nextPhase s.phase1 d else s.phase1
        deadline0 := if m = .a then nextDeadline s.now s.delay else s.deadline0
        deadline1 := if m = .b then nextDeadline s.now s.delay else s.deadline1
        lastByte := s.stepByte m
        latch := 1
        resp := respFired
        outputs := s.outputs ++ [.latch 0, .tx (s.stepByte m), .latch 1]
        responses := s.responses ++ [respFired] } := by
  cases m <;>
    simp [State.fire, State.stepByte, State.transmit, State.driveLatch, State.serialShift,
      State.setLastByte, State.setPhase, State.setDeadline, State.respond, State.phase]

section

variable (s : State) (m : MotorSlot) (d : Direction)

@[simp] theorem State.fire_cfg : (s.fire m d).cfg = s.cfg := rfl
@[simp] theorem State.fire_phase0 :
    (s.fire m d).phase0 = if m = .a then nextPhase s.phase0 d else s.phase0 := by
  cases m <;> rfl
@[simp] theorem State.fire_phase1 :
    (s.fire m d).phase1 = if m = .b then nextPhase s.phase1 d else s.phase1 := by
  cases m <;> rfl
@[simp] theorem State.fire_deadline0 :
    (s.fire m d).deadline0 = if m = .a then nextDeadline s.now s.delay else s.deadline0 := rfl
@[simp] theorem State.fire_deadline1 :
    (s.fire m d).deadline1 = if m = .b then nextDeadline s.now s.delay else s.deadline1 := rfl
@[simp] theorem State.fire_delay : (s.fire m d).delay = s.delay := rfl
@[simp] theorem State.fire_lastByte : (s.fire m d).lastByte = s.stepByte m := rfl
@[simp] theorem State.fire_latch : (s.fire m d).latch = 1 := rfl
@[simp] theorem State.fire_resp : (s.fire m d).resp = respFired := rfl
@[simp] theorem State.fire_now : (s.fire m d).now = s.now := rfl
@[simp] theorem State.fire_inputs : (s.fire m d).inputs = s.inputs := rfl
@[simp] theorem State.fire_responses : (s.fire m d).responses = s.responses ++ [respFired] := rfl
@[simp] theorem State.fire_illegals : (s.fire m d).illegals = s.illegals := rfl
@[simp] theorem State.fire_outputs :
    (s.fire m d).outputs = s.outputs ++ [.latch 0, .tx (s.stepByte m), .latch 1] := by
  rw [State.fire_spec]

/-- The deadline of the slot that fired (R127). -/
@[simp] theorem State.fire_deadline : (s.fire m d).deadline m = nextDeadline s.now s.delay := by
  cases m <;> rfl

/-- The phase of the slot that fired (R120). -/
@[simp] theorem State.fire_phase : (s.fire m d).phase m = nextPhase (s.phase m) d := by
  cases m <;> rfl

/-- A fired STEP keeps the other slot's phase (R34). -/
@[simp] theorem State.fire_phase_other :
    (s.fire m d).phase (otherSlot m) = s.phase (otherSlot m) := by
  cases m <;> rfl

/-- A fired STEP keeps the other slot's deadline (R34). -/
@[simp] theorem State.fire_deadline_other :
    (s.fire m d).deadline (otherSlot m) = s.deadline (otherSlot m) := by
  cases m <;> rfl

end

/-- STEP of a due slot (R128). -/
theorem execStep_of_due {s : State} {m : MotorSlot} (d : Direction)
    (h : isDue s.now (s.deadline m) = true) : execStep m d s = .next (s.fire m d) := by
  simp [execStep, h]

/-- STEP of a slot that is not due (R129). -/
theorem execStep_of_not_due {s : State} {m : MotorSlot} (d : Direction)
    (h : isDue s.now (s.deadline m) = false) : execStep m d s = .next (s.respond respPlain) := by
  simp [execStep, h]

/-- SET_DELAY (R101 to R103). -/
theorem execSetDelay_spec (a : Amount) (s : State) :
    execSetDelay a s =
      .next ((s.setDelay (if delayAccepted a then a.setWidth 9 else s.delay)).respond respPlain) := by
  unfold execSetDelay
  split <;> simp_all [State.setDelay]

/-- The due comparator in the terms of R126. -/
theorem isDue_iff {w : Nat} (now deadline : BitVec w) :
    isDue now deadline = true ↔ (now - deadline).msb = false := by
  simp [isDue]

/-- The next deadline as a number (R127). -/
theorem nextDeadline_toNat {w : Nat} (now : BitVec w) (delay : DelayReg) :
    (nextDeadline now delay).toNat = (now.toNat + delay.toNat) % 2 ^ w := by
  simp [nextDeadline]

/-- The deadline of the slot that fired as a number (R127). -/
@[simp] theorem State.fire_deadline_toNat (s : State) (m : MotorSlot) (d : Direction) :
    ((s.fire m d).deadline m).toNat = (s.now.toNat + s.delay.toNat) % 2 ^ s.cfg.tickW := by
  cases m <;> exact nextDeadline_toNat _ _

/-- The due test of a command that has just been taken reads its own tick (R41). -/
@[simp] theorem isDue_accept (s : State) (m : MotorSlot) (tick : BitVec s.cfg.tickW)
    (rest : List (HostInput s.cfg.tickW)) :
    isDue (s.accept tick rest).now ((s.accept tick rest).deadline m) = isDue tick (s.deadline m) := by
  cases m <;> rfl

/-- The log of one transmission adds one byte to the trace. -/
@[simp] theorem txBytes_append (l k : List OutEvent) : txBytes (l ++ k) = txBytes l ++ txBytes k := by
  simp [txBytes]

@[simp] theorem txBytes_nil : txBytes [] = [] := rfl

@[simp] theorem txBytes_cons_tx (b : Byte) (l : List OutEvent) : txBytes (.tx b :: l) = b :: txBytes l :=
  rfl

@[simp] theorem txBytes_cons_latch (v : BitVec 1) (l : List OutEvent) :
    txBytes (.latch v :: l) = txBytes l := rfl

@[simp] theorem txBytes_cons_busBegin (l : List OutEvent) : txBytes (.busBegin :: l) = txBytes l := rfl

@[simp] theorem txBytes_cons_cut (l : List OutEvent) : txBytes (.cut :: l) = txBytes l := rfl

/-- Everything a legal command can do: its outcome is a next state in which only the fields the command's
rule names have changed. The cases are the five commands, STEP split by its due test. -/
theorem exec_cases {i : Instr} {s t : State} (h : exec i s = .next t) :
    (i = .nop ∧ t = s.respond respPlain) ∨
    (∃ m d, i = .step m d ∧ isDue s.now (s.deadline m) = true ∧ t = s.fire m d) ∨
    (∃ m d, i = .step m d ∧ isDue s.now (s.deadline m) = false ∧ t = s.respond respPlain) ∨
    (∃ a, i = .setDelay a ∧
      t = (s.setDelay (if delayAccepted a then a.setWidth 9 else s.delay)).respond respPlain) ∨
    (i = .stopAll ∧ t = (s.transmit 0x00).respond respPlain) ∨
    ∃ m, i = .stopMotor m ∧
      t = (s.transmit (nibbleMux s.cfg.composeMode m 0b0000 s.lastByte)).respond respPlain := by
  cases i with
  | nop => simp_all [exec, execNop]
  | step m d =>
    by_cases hd : isDue s.now (s.deadline m) = true
    · simp_all [exec, execStep_of_due]
    · simp_all [exec, execStep_of_not_due]
  | setDelay a => simp_all [exec, execSetDelay_spec]
  | stopAll => simp_all [exec, execStopAll]
  | stopMotor m => simp_all [exec, execStopMotor]

end Sys2Proof.Machine
end

