-- ==== Sys2Proof/Laws/Step.lean ====
section
/-! SUPPORT. What one step of the block can do, said once: invariants are derived from `step_cases` and
`exec_cases`, not from the step function. -/

namespace Sys2Proof.Machine

/-- A legal word runs its command. -/
theorem runWord_of_ok {w : CommandWord} {i : Instr} (h : decode w = .ok i) (s : State) :
    runWord w s = exec i s := by
  simp [runWord, h]

/-- An illegal word raises IllegalCommand. -/
theorem runWord_of_error {w : CommandWord} {e : DecodeReject} (h : decode w = .error e) (s : State) :
    runWord w s = .next (s.raiseIllegalCommand w) := by
  simp [runWord, h]

/-- A NOP leaves the tick sample held before (R100). -/
theorem State.tickSample_of_nop {w : CommandWord} (h : decode w = .ok .nop) (s : State)
    (tick : BitVec s.cfg.tickW) : s.tickSample w tick = s.now := by
  simp [State.tickSample, samplesNow, h]

/-- Every other command samples its own tick (R41). -/
theorem State.tickSample_of_ok {w : CommandWord} {i : Instr} (h : decode w = .ok i) (hi : i ≠ .nop)
    (s : State) (tick : BitVec s.cfg.tickW) : s.tickSample w tick = tick := by
  cases i <;> simp_all [State.tickSample, samplesNow]

/-- An illegal word's tick is sampled (log 5). -/
theorem State.tickSample_of_error {w : CommandWord} {e : DecodeReject} (h : decode w = .error e) (s : State)
    (tick : BitVec s.cfg.tickW) : s.tickSample w tick = tick := by
  simp [State.tickSample, h]

/-- The due test of a STEP that has just been taken reads the STEP's own tick (R41, R126). -/
theorem isDue_accept_tickSample {w : CommandWord} {m : MotorSlot} {d : Direction}
    (h : decode w = .ok (.step m d)) (s : State) (k : MotorSlot) (tick : BitVec s.cfg.tickW)
    (rest : List (HostInput s.cfg.tickW)) :
    isDue (s.accept (s.tickSample w tick) rest).now ((s.accept (s.tickSample w tick) rest).deadline k) =
      isDue tick (s.deadline k) := by
  rw [isDue_accept, State.tickSample_of_ok h (by simp)]

/-- Everything the running of a word can do. -/
theorem runWord_cases {w : CommandWord} {s t : State} (h : runWord w s = .next t) :
    (∃ i, decode w = .ok i ∧ exec i s = .next t) ∨
    ((∃ e, decode w = .error e) ∧ t = s.raiseIllegalCommand w) := by
  cases hd : decode w with
  | ok i => exact .inl ⟨i, rfl, by rwa [runWord_of_ok hd] at h⟩
  | error e =>
    rw [runWord_of_error hd] at h
    exact .inr ⟨⟨e, rfl⟩, by cases h; rfl⟩

/-- Everything one step can do: wait, run a word, reset, or reset a command in flight. -/
theorem step_cases {s t : State} (h : step s = .next t) :
    (s.inputs = [] ∧ t = s) ∨
    (∃ w tick rest, s.inputs = .command w tick :: rest ∧
      runWord w (s.accept (s.tickSample w tick) rest) = .next t) ∨
    (∃ tick rest, s.inputs = .reset tick :: rest ∧
      t = ({ s with inputs := rest } : State).resetBlock tick) ∨
    ∃ w tick point resetTick rest u,
      s.inputs = .resetDuring w tick point resetTick :: rest ∧
      runWord w (s.accept (s.tickSample w tick) rest) = .next u ∧
      t = ({ s.accept (s.tickSample w tick) rest with
            outputs := cutOutputs point s.outputs u.outputs } : State).resetBlock resetTick := by
  unfold step at h
  split at h
  · next hi => exact .inl ⟨hi, by cases h; rfl⟩
  · next x rest hi =>
    cases x with
    | command w tick => exact .inr (.inl ⟨w, tick, rest, hi, h⟩)
    | reset tick => exact .inr (.inr (.inl ⟨tick, rest, hi, by cases h; rfl⟩))
    | resetDuring w tick point resetTick =>
      refine .inr (.inr (.inr ⟨w, tick, point, resetTick, rest, ?_⟩))
      simp only [runInput] at h
      cases hr : runWord w (s.accept (s.tickSample w tick) rest) with
      | next u =>
        rw [hr] at h
        exact ⟨u, hi, rfl, by cases h; rfl⟩
      | fault r => rw [hr] at h; cases h
      | refused r => rw [hr] at h; cases h

/-- Reading the next input of a step whose head is known. -/
theorem step_of_command {s : State} {w : CommandWord} {tick : BitVec s.cfg.tickW}
    {rest : List (HostInput s.cfg.tickW)} (h : s.inputs = .command w tick :: rest) :
    step s = runWord w (s.accept (s.tickSample w tick) rest) := by
  unfold step; rw [h]; rfl

/-- A reset at the head of the inputs (R230). -/
theorem step_of_reset {s : State} {tick : BitVec s.cfg.tickW} {rest : List (HostInput s.cfg.tickW)}
    (h : s.inputs = .reset tick :: rest) :
    step s = .next (({ s with inputs := rest } : State).resetBlock tick) := by
  unfold step; rw [h]; rfl

/-- A command in flight that a reset ends (R233); `u` is the state the command would have left. -/
theorem step_of_resetDuring {s u : State} {w : CommandWord} {tick : BitVec s.cfg.tickW} {point : CutPoint}
    {resetTick : BitVec s.cfg.tickW} {rest : List (HostInput s.cfg.tickW)}
    (h : s.inputs = .resetDuring w tick point resetTick :: rest)
    (hu : runWord w (s.accept (s.tickSample w tick) rest) = .next u) :
    step s = .next (({ s.accept (s.tickSample w tick) rest with
      outputs := cutOutputs point s.outputs u.outputs } : State).resetBlock resetTick) := by
  unfold step; rw [h]; simp only [runInput, hu]; rfl

/-- A run of several steps whose first step is known. -/
theorem core_run_of_step {s t : State} (n : Nat) (h : step s = .next t) :
    Sys2Proof.core.run (n + 1) s = Sys2Proof.core.run n t := by
  have key : ∀ (M : Host.Core) (a b : M.State), M.step a = .next b → M.run (n + 1) a = M.run n b := by
    intro M a b hab
    rw [Host.Core.run, hab]
  exact key Sys2Proof.core s t h

end Sys2Proof.Machine
end

