-- ==== Sys2Proof/Laws/Output.lean ====
section
/-! SUPPORT. The lemmas of the output path: where the mux puts a nibble, how the views of the log grow, and
what each step adds to the log. -/

namespace Sys2Proof.Machine

/-- The served slot's nibble is the one given to the mux (R64, R124, R125). -/
@[simp] theorem slotNibble_nibbleMux (mode : ComposeMode) (m : MotorSlot) (nib : Nibble) (last : Byte) :
    slotNibble m (nibbleMux mode m nib last) = nib := by
  cases mode <;> cases m <;> simp only [nibbleMux, muxLiteral, muxRecombine, slotNibble] <;>
    first
    | exact BitVec.extractLsb'_append_eq_right ..
    | exact BitVec.extractLsb'_append_eq_left ..

/-- The other slot's nibble is 0000 in LITERAL mode (R124). -/
theorem slotNibble_muxLiteral_other (m : MotorSlot) (nib : Nibble) :
    slotNibble (otherSlot m) (muxLiteral m nib) = 0 := by
  cases m <;> simp only [muxLiteral, slotNibble, otherSlot] <;>
    first
    | exact BitVec.extractLsb'_append_eq_right ..
    | exact BitVec.extractLsb'_append_eq_left ..

/-- The other slot's nibble is the last one in RECOMBINE mode (R125). -/
theorem slotNibble_muxRecombine_other (m : MotorSlot) (nib : Nibble) (last : Byte) :
    slotNibble (otherSlot m) (muxRecombine m nib last) = slotNibble (otherSlot m) last := by
  cases m <;> simp only [muxRecombine, slotNibble, otherSlot] <;>
    first
    | exact BitVec.extractLsb'_append_eq_right ..
    | exact BitVec.extractLsb'_append_eq_left ..

/-- Every entry of the table is a nibble the block may send (R122, R123). -/
theorem legalNibble_drivePattern : ∀ p : Phase, legalNibble (drivePattern p) = true := by decide

/-- A byte is legal when its two slots' nibbles are. -/
theorem legalByte_eq (b : Byte) (m : MotorSlot) :
    legalByte b = (legalNibble (slotNibble m b) && legalNibble (slotNibble (otherSlot m) b)) := by
  cases m <;> simp [legalByte, slotNibble, otherSlot, Bool.and_comm]

/-- The mux makes legal bytes of legal nibbles and a legal last byte. -/
theorem legalByte_nibbleMux (mode : ComposeMode) (m : MotorSlot) {nib : Nibble} {last : Byte}
    (hn : legalNibble nib = true) (hl : legalByte last = true) :
    legalByte (nibbleMux mode m nib last) = true := by
  rw [legalByte_eq _ m, slotNibble_nibbleMux, hn, Bool.true_and]
  cases mode with
  | literal => rw [nibbleMux, slotNibble_muxLiteral_other]; decide
  | recombine =>
    rw [nibbleMux, slotNibble_muxRecombine_other]
    rw [legalByte_eq _ m, Bool.and_eq_true] at hl
    exact hl.2

/-- A whole log followed by a log is whole exactly when the second is. -/
theorem wholeGestures_append (l k : List OutEvent) (h : wholeGestures l = true) :
    wholeGestures (l ++ k) = wholeGestures k := by
  induction l using wholeGestures.induct with
  | case1 => rfl
  | case2 level rest ih => simp_all [wholeGestures]
  | case3 low b high rest ih => simp_all [wholeGestures]
  | case4 low level rest ih => simp_all [wholeGestures]
  | case5 l _ _ _ _ => simp_all [wholeGestures]

/-- The last byte sent, after one more event. -/
@[simp] theorem lastSent_append_tx (l : List OutEvent) (b : Byte) (v : BitVec 1) :
    lastSent (l ++ [.latch 0, .tx b, .latch v]) = b := by
  simp [lastSent]

/-- A reset empties what was sent last. -/
@[simp] theorem lastSent_append_reset (l : List OutEvent) (v : BitVec 1) :
    lastSent (l ++ [.latch v, .busBegin]) = 0x00 := by
  simp [lastSent]

/-- The device after a log that goes on. -/
theorem deviceAfter_append (l k : List OutEvent) :
    deviceAfter (l ++ k) = k.foldl DeviceView.event (deviceAfter l) := by
  simp [deviceAfter]

/-- Whole gestures leave nothing waiting in the shift register. -/
theorem wholeGestures_staged (l : List OutEvent) (h : wholeGestures l = true) :
    ∀ v : DeviceView, v.staged = none → (l.foldl DeviceView.event v).staged = none := by
  induction l using wholeGestures.induct with
  | case1 => intro v hv; exact hv
  | case2 level rest ih =>
    intro v hv
    simp only [wholeGestures, Bool.and_eq_true] at h
    simpa only [List.foldl_cons, DeviceView.event, hv] using ih h.2 v hv
  | case3 low b high rest ih =>
    intro v hv
    simp only [wholeGestures, Bool.and_eq_true, beq_iff_eq] at h
    obtain ⟨⟨-, rfl⟩, hr⟩ := h
    simp only [List.foldl_cons, DeviceView.event, hv]
    exact ih hr _ rfl
  | case4 low level rest ih =>
    intro v hv
    simp only [wholeGestures, Bool.and_eq_true, beq_iff_eq] at h
    obtain ⟨⟨-, rfl⟩, hr⟩ := h
    simp only [List.foldl_cons, DeviceView.event, hv]
    exact ih hr _ rfl
  | case5 l _ _ _ _ => simp_all [wholeGestures]

/-- What a word adds to the log: nothing, or one transmission of the byte it leaves in `last_byte`. -/
theorem runWord_outputs {w : CommandWord} {s t : State} (h : runWord w s = .next t) :
    (t.outputs = s.outputs ∧ t.lastByte = s.lastByte) ∨
      t.outputs = s.outputs ++ [.latch 0, .tx t.lastByte, .latch 1] := by
  rcases runWord_cases h with ⟨i, -, hi⟩ | ⟨-, rfl⟩
  · rcases exec_cases hi with ⟨rfl, rfl⟩ | ⟨m, d, rfl, -, rfl⟩ | ⟨m, d, rfl, -, rfl⟩ |
      ⟨a, rfl, rfl⟩ | ⟨rfl, rfl⟩ | ⟨m, rfl, rfl⟩ <;> simp
  · simp

end Sys2Proof.Machine
end

