-- ==== Sys2Proof/Laws/PerInstr.lean ====
section
/-! SUPPORT. The family RowSelects: the encoding of each command is selected by its own row of R83 and by no
other. One lemma per constructor of `Instr`. -/

namespace Sys2Proof.Laws.RowSelects

/-- The row of R83 a command is encoded by. -/
def rowOf : Instr → OpcodeRow
  | .nop => rowNop
  | .step _ _ => rowStep
  | .setDelay _ => rowSetDelay
  | .stopAll => rowStopAll
  | .stopMotor _ => rowStopMotor

/-- The command's word is selected by its row, and by no other row of the table. -/
def Statement (i : Instr) : Prop :=
  ∀ r ∈ opcodeRows, r.selects (encode i) = true ↔ r = rowOf i

theorem nop : Statement .nop := by
  unfold Statement; decide

theorem step (m : MotorSlot) (d : Direction) : Statement (.step m d) := by
  unfold Statement; cases m <;> cases d <;> decide

theorem setDelay (a : Amount) : Statement (.setDelay a) := by
  have hop : opField (encode (.setDelay a)) = 0b010 := by simp [encode]
  have hno : ∀ r : OpcodeRow, opField r.mask = 7 → opField r.value ≠ 0b010 →
      r.selects (encode (.setDelay a)) = false := by
    intro r hm hv
    by_contra h
    exact hv ((opField_of_selects hm (by simpa using h)).symm.trans hop)
  simp only [Statement, opcodeRows, rowOf, List.forall_mem_cons, List.not_mem_nil]
  rw [hno rowNop (by decide) (by decide), hno rowStep (by decide) (by decide), setDelay_selected,
    hno rowStopAll (by decide) (by decide), hno rowStopMotor (by decide) (by decide)]
  have hne : rowNop ≠ rowSetDelay ∧ rowStep ≠ rowSetDelay ∧ rowStopAll ≠ rowSetDelay ∧
      rowStopMotor ≠ rowSetDelay := by decide
  simp [hne]

theorem stopAll : Statement .stopAll := by
  unfold Statement; decide

theorem stopMotor (m : MotorSlot) : Statement (.stopMotor m) := by
  unfold Statement; cases m <;> decide

end Sys2Proof.Laws.RowSelects
end

