-- ==== Sys2Proof/Tests/Slice0.lean ====
section
/-! SUPPORT. Tests, with the expected results taken from spec/95_test_vectors.md and from the rules by hand,
and for every statement with hypotheses a state and operands that meet them (`witness_<statement>`). -/

namespace Sys2Proof.Tests

open Sys2Proof.Machine

/-- The next state of an outcome. -/
def nextState (o : Host.Outcome State Fault Refusal) : Option State :=
  match o with
  | .next t => some t
  | .fault _ => none
  | .refused _ => none

/-- A build with the default tick width. -/
def build (mode : ComposeMode) : Config := { tickW := 32, delayReset := 2, composeMode := mode }

/-- Both slots at phase 2 with deadline 50 and delay 10, last byte 0xC9, at tick `now`. -/
def demo (mode : ComposeMode) (now : BitVec 32) : State :=
  { State.afterReset (build mode) 50 with
    phase0 := 2, phase1 := 2, delay := 10, lastByte := 0xC9, now := now }

/-- `demo` at tick 50 with one input to come. -/
def demoInput (mode : ComposeMode) (x : HostInput 32) : State := { demo mode 50 with inputs := [x] }

/-! ## Checks refuse -/

/-- D3: TICK_W is at least 10. -/
theorem test_tickW_checked :
    Config.wellFormed { tickW := 9, delayReset := 0, composeMode := .literal } = false ∧
    Config.wellFormed { tickW := 10, delayReset := 0, composeMode := .literal } = true := by decide

/-- D7: DELAY_RESET is at most 256. -/
theorem test_delayReset_checked :
    Config.wellFormed { tickW := 32, delayReset := 257, composeMode := .literal } = false ∧
    Config.wellFormed { tickW := 32, delayReset := 256, composeMode := .literal } = true := by decide

/-- R89: an amount is in 0..65535. -/
theorem test_amount_checked : amountInRange 65536 = false ∧ amountInRange 65535 = true := by decide

/-! ## Decoding (95_test_vectors.md D1, words written from R83) -/

theorem test_decode_nop :
    decode 0b000_0_0_000_0000000000000000 = .ok .nop ∧ decode 0x000001 = .error .nonzeroFixedBit := by
  decide

theorem test_decode_step :
    decode 0b001_0_0_000_0000000000000000 = .ok (.step .a .ccw) ∧
    decode 0b001_1_1_000_0000000000000000 = .ok (.step .b .cw) ∧ decode 0x280000 = .ok (.step .a .cw) ∧
    decode 0x300000 = .ok (.step .b .ccw) ∧ decode 0x200001 = .error .nonzeroFixedBit := by decide

theorem test_decode_setDelay :
    decode 0b010_0_0_000_0000000100101100 = .ok (.setDelay 300) ∧
    decode 0x400100 = .ok (.setDelay 256) ∧ decode 0x480002 = .error .nonzeroFixedBit ∧
    decode 0x500002 = .error .nonzeroFixedBit ∧ decode 0x410000 = .error .nonzeroFixedBit := by decide

theorem test_decode_stopAll :
    decode 0b011_0_0_000_0000000000000000 = .ok .stopAll ∧ decode 0x680000 = .error .nonzeroFixedBit ∧
    decode 0x700000 = .error .nonzeroFixedBit := by decide

theorem test_decode_stopMotor :
    decode 0b100_0_0_000_0000000000000000 = .ok (.stopMotor .a) ∧
    decode 0b100_1_0_000_0000000000000000 = .ok (.stopMotor .b) ∧
    decode 0x880000 = .error .nonzeroFixedBit ∧ decode 0x800001 = .error .nonzeroFixedBit := by decide

theorem test_decode_reserved :
    decode 0xA00000 = .error .reservedOp ∧ decode 0xC00000 = .error .reservedOp ∧
    decode 0xE00000 = .error .reservedOp ∧ decode 0xFFFFFF = .error .reservedOp := by decide

theorem test_decodeTableWord :
    decodeTableWord 24 0x380000 = some (.step .b .cw) ∧ decodeTableWord 24 0xA00000 = none := by decide

/-! ## The datapath (95_test_vectors.md D2 to D5) -/

theorem test_nextPhase :
    nextPhase 3 .ccw = 0 ∧ nextPhase 0 .cw = 3 ∧ nextPhase 1 .ccw = 2 ∧ nextPhase 2 .cw = 1 := by decide

theorem test_drivePattern :
    drivePattern 0 = 0x9 ∧ drivePattern 1 = 0xC ∧ drivePattern 2 = 0x6 ∧ drivePattern 3 = 0x3 := by decide

theorem test_nibbleMux :
    nibbleMux .literal .a 0x9 0xC3 = 0x09 ∧ nibbleMux .literal .b 0x9 0xC3 = 0x90 ∧
    nibbleMux .recombine .a 0x9 0xC3 = 0xC9 ∧ nibbleMux .recombine .b 0x9 0xC3 = 0x93 := by decide

theorem test_due_32 :
    isDue 0x00000004#32 0x00000005 = false ∧ isDue 0x00000000#32 0xFFFFFFFF = true ∧
    isDue 0x7FFFFFFF#32 0x00000000 = true ∧ isDue 0x80000000#32 0x00000000 = false := by decide

theorem test_due_10 :
    isDue 0x3FF#10 0x000 = false ∧ isDue 0x1FF#10 0x000 = true ∧ isDue 0x200#10 0x000 = false ∧
    isDue 0x0FF#10 0x3FF = true := by decide

theorem test_nextDeadline :
    nextDeadline 0xFFFFFFFF#32 256 = 0x000000FF ∧ nextDeadline 0xFFFFFFFE#32 2 = 0 ∧
    nextDeadline 7#32 0 = 7 := by decide

/-! ## One command (95_test_vectors.md D6 to D10) -/

theorem test_nop : ((nextState (exec .nop (demo .literal 50))).map fun t => (t.lastByte, t.trace, t.delay)) =
    some (0xC9, [], 10) := by decide

/-- D7.3: STEP B, CCW at its deadline. -/
theorem test_step_fires :
    ((nextState (exec (.step .b .ccw) (demo .literal 50))).map
      fun t => (t.trace, t.phase1, t.deadline1.toNat, t.resp.fired, t.phase0)) =
    some ([0x60], 3, 60, true, 2) := by decide

/-- D7.2: STEP B, CCW one tick early. -/
theorem test_step_not_due :
    ((nextState (exec (.step .b .ccw) (demo .literal 49))).map
      fun t => (t.trace, t.phase1, t.deadline1.toNat, t.resp.fired)) =
    some ([], 2, 50, false) := by decide

/-- D6.4: 256 is accepted. -/
theorem test_setDelay_256 :
    ((nextState (exec (.setDelay 256) (demo .literal 50))).map fun t => (t.delay, t.resp.illegal)) =
    some (256, false) := by decide

/-- D6.5: 257 is rejected. -/
theorem test_setDelay_257 :
    ((nextState (exec (.setDelay 257) (demo .literal 50))).map fun t => (t.delay, t.resp.illegal)) =
    some (10, false) := by decide

/-- D8.1. -/
theorem test_stopAll :
    ((nextState (exec .stopAll (demo .recombine 50))).map fun t => (t.trace, t.lastByte, t.phase0)) =
    some ([0x00], 0x00, 2) := by decide

/-- D8.3. -/
theorem test_stopMotor_literal :
    ((nextState (exec (.stopMotor .b) (demo .literal 50))).map fun t => (t.trace, t.lastByte)) =
    some ([0x00], 0x00) := by decide

/-- D8.4. -/
theorem test_stopMotor_recombine :
    ((nextState (exec (.stopMotor .a) (demo .recombine 50))).map fun t => (t.trace, t.lastByte)) =
    some ([0xC0], 0xC0) := by decide

/-- D9: an illegal word. -/
theorem test_illegal :
    ((nextState (step (demoInput .literal (.command 0xA00000 50)))).map
      fun t => (t.resp, t.lastByte, t.latch, t.trace, t.illegals)) =
    some (respIllegal, 0xC9, 1, [], [{ cause := 1, word := 0xA00000 }]) := by decide

/-- D10: a reset at tick 0x12345678, DELAY_RESET = 2. -/
theorem test_reset :
    ((nextState (step (demoInput .literal (.reset 0x12345678)))).map
      fun t => (t.phase0, t.phase1, t.deadline0.toNat, t.deadline1.toNat)) =
    some (0, 0, 0x12345678, 0x12345678) ∧
    ((nextState (step (demoInput .literal (.reset 0x12345678)))).map
      fun t => (t.delay, t.lastByte, t.latch, t.trace)) = some (2, 0x00, 1, []) := by decide

/-- R233: a reset during a transmission. -/
theorem test_reset_during :
    ((nextState (step (demoInput .literal (.resetDuring 0x200000 50 .during 60)))).map
      fun t => (t.deadline0.toNat, t.responses, t.registerOutputs, t.trace)) =
    some (60, [], none, []) := by decide

/-- The step runs the word that `withFetchWord` places, right after reset (D7.1: STEP A, CW at tick 0). -/
theorem test_withFetchWord :
    ((nextState (step (State.reset.withFetchWord 24 0x280000))).map
      fun t => (t.trace, t.phase0, t.registerOutputs)) = some ([0x09], 3, some 0x09) := by decide

/-- R90 and R89. -/
theorem test_assemble :
    assemble "STOP A" = .ok 0x800000 ∧ assemble "SET_DELAY 300" = .ok 0x40012C ∧
    assemble "SET_DELAY 65536" = .error .amountOutOfRange ∧ assemble "STEP A, UP" = .error .badOperands := by
  decide

/-! ## Witnesses -/

theorem witness_EncodeInvertsDecode : decode 0x380000 = .ok (.step .b .cw) := by decide

theorem witness_PatternSelectsCommand :
    (0x000000 : CommandWord) &&& 0xFFFFFF = 0x000000 ∧ (0x380000 : CommandWord) &&& 0xE7FFFF = 0x200000 ∧
    (0x40FFFF : CommandWord) &&& 0xFF0000 = 0x400000 ∧ (0x600000 : CommandWord) &&& 0xFFFFFF = 0x600000 ∧
    (0x900000 : CommandWord) &&& 0xEFFFFF = 0x800000 := by decide

theorem witness_IllegalWordsRaise :
    illegalWord 0xA00000 ∧ illegalWord 0x210000 ∧ illegalWord 0x700000 ∧ illegalWord 0x680000 ∧
    illegalWord 0x000001 ∧ (demoInput .literal (.command 0x700000 3)).inputs = [.command 0x700000 3] ∧
    ¬ illegalWord 0x4000FF ∧ (demoInput .literal (.command 0x4000FF 3)).inputs = [.command 0x4000FF 3] ∧
    ∃ t, step (demoInput .literal (.command 0x4000FF 3)) = .next t := by
  refine ⟨?_, ?_, ?_, ?_, ?_, rfl, ?_, rfl, ⟨_, rfl⟩⟩ <;> unfold illegalWord <;> decide

theorem witness_ResetWritesEveryField :
    (demoInput .recombine (.reset 7)).inputs = [.reset 7] := rfl

theorem witness_ResetEndsCommandInFlight :
    (demoInput .literal (.resetDuring 0x200000 50 .before 60)).inputs =
      [.resetDuring 0x200000 50 .before 60] ∧
    (demoInput .literal (.resetDuring 0x000000 50 .during 60)).inputs =
      [.resetDuring 0x000000 50 .during 60] ∧
    (demoInput .literal (.resetDuring 0x200000 50 .during 60)).inputs =
      [.resetDuring 0x200000 50 .during 60] ∧
    (demoInput .literal (.resetDuring 0x200000 50 .after 60)).inputs =
      [.resetDuring 0x200000 50 .after 60] := ⟨rfl, rfl, rfl, rfl⟩

theorem witness_NopOnlyResponds : opField 0x000001 = 0b000 ∧ (0x000001 : CommandWord) ≠ 0 := by decide

/-- The largest accepted amount, and a due slot. -/
theorem witness_NewDelayUsedByNextStep :
    (256 : Amount).toNat ≤ 256 ∧
      ((demo .literal 50).now - (demo .literal 50).deadline .b).msb = false := by decide

/-- Due at the deadline, not due one tick before it. -/
theorem witness_StepResult :
    ((demo .literal 50).now - (demo .literal 50).deadline .a).msb = false ∧
    ((demo .literal 49).now - (demo .literal 49).deadline .a).msb = true ∧
    (0x06 : Byte) = nibbleMux (demo .literal 50).cfg.composeMode .a
      (drivePattern ((demo .literal 50).phase .a)) (demo .literal 50).lastByte := by decide

theorem witness_DueTestIsSigned : 0 < 32 := by decide

theorem witness_DeadlineAfterFire :
    ((demo .recombine 50).now - (demo .recombine 50).deadline .b).msb = false := by decide

/-- After a fire at 50 with delay 10: 59 is before the delay has passed, 60 is the first due tick, and
60 + 2^31 - 1 is the last. -/
theorem witness_TimingLaw :
    10 ≤ (demo .literal 50).cfg.tickW ∧ (demo .literal 50).delay.toNat ≤ 256 ∧
    ((demo .literal 50).now - (demo .literal 50).deadline .a).msb = false ∧
    (59 + (2 ^ 32 - 50)) % 2 ^ 32 < (demo .literal 50).delay.toNat ∧
    (demo .literal 50).delay.toNat ≤ (60 + (2 ^ 32 - 50)) % 2 ^ 32 ∧
    (60 + 2 ^ 31 - 1 + (2 ^ 32 - 50)) % 2 ^ 32 < (demo .literal 50).delay.toNat + 2 ^ 31 := by decide

/-- Exactly half the tick range past the deadline. -/
theorem witness_HalfRangeStall :
    0 < (demo .literal (50 + 0x80000000)).cfg.tickW ∧
    2 ^ 31 ≤ ((demo .literal (50 + 0x80000000)).now.toNat +
      (2 ^ 32 - ((demo .literal (50 + 0x80000000)).deadline .a).toNat)) % 2 ^ 32 := by decide

theorem witness_ZeroDelayFiresAgain :
    ({ demo .literal 50 with delay := 0 } : State).delay = 0 ∧
    (({ demo .literal 50 with delay := 0 } : State).now -
      ({ demo .literal 50 with delay := 0 } : State).deadline .a).msb = false := by decide

/-- The last tick that is due after a reset at tick 5. -/
theorem witness_FirstStepAfterReset :
    0 < (build .literal).tickW ∧ (5 + 2 ^ 31 - 1 + (2 ^ 32 - 5)) % 2 ^ 32 < 2 ^ 31 := by decide

theorem witness_OtherSlotKept :
    ∃ t, exec (.step .a .ccw) (demo .literal 50) = .next t := ⟨_, rfl⟩

/-- Two fired STEPs of slot A in one direction, with delay 0. -/
theorem witness_PatternSequence :
    let s : State := { demo .literal 50 with
      delay := 0, inputs := [.command 0x200000 50, .command 0x200000 50] }
    2 ≤ s.inputs.length ∧ s.inputs.take 2 =
      [.command (encode (.step .a .ccw)) 50, .command (encode (.step .a .ccw)) 50] ∧
    ∃ t, Host.Core.run Sys2Proof.core 2 s = .next t ∧
      t.responses = s.responses ++ List.replicate 2 { fired := true, illegal := false } :=
  ⟨by decide, by decide, _, rfl, by decide⟩

/-- After the fire the deadline is 60: tick 60 is due. -/
theorem witness_DirectionLag :
    ((demo .literal 50).now - (demo .literal 50).deadline .a).msb = false ∧
    ∃ t, exec (.step .a .ccw) (demo .literal 50) = .next t ∧
      (BitVec.ofNat t.cfg.tickW 60 - t.deadline .a).msb = false :=
  ⟨by decide, _, rfl, by decide⟩

theorem witness_StopMotorLiteral : (demo .literal 50).cfg.composeMode = .literal := by decide

/-- The first and last clauses; the two between them have the next witness. -/
theorem witness_StopMotorRecombine :
    (demo .recombine 50).cfg.composeMode = .recombine ∧
    (0xC0 : Byte) = (demo .recombine 50).lastByte &&& 0xF0 ∧
    (0x09 : Byte) = (demo .recombine 50).lastByte &&& 0x0F ∧
    ((demo .recombine 50).now - (demo .recombine 50).deadline (otherSlot .a)).msb = false := by decide

/-- Slot A's nibble is 0000 (what STOP_MOTOR A leaves): a STOP_MOTOR B, a fired STEP of slot B, a STEP of slot
A that is not due, and a step meet the premises. -/
theorem witness_StopMotorRecombine_kept :
    let s : State := { demoInput .recombine (.command 0x300000 50) with lastByte := 0xC0 }
    s.cfg.composeMode = .recombine ∧ slotNibble .a s.lastByte = 0b0000 ∧
    (∃ t, exec (.stopMotor .b) s = .next t) ∧ (∃ t, exec (.step .b .ccw) s = .next t) ∧
    (∀ d, Instr.step .b .ccw ≠ .step .a d) ∧
    (({ s with now := 49 } : State).now - ({ s with now := 49 } : State).deadline .a).msb = true ∧
    (∀ w tick rest d, s.inputs = .command w tick :: rest → decode w = .ok (.step .a d) →
      (tick - s.deadline .a).msb = true) ∧
    ∃ t, step s = .next t := by
  refine ⟨rfl, by decide, ⟨_, rfl⟩, ⟨_, rfl⟩, (by intro d h; cases h), by decide, ?_, ⟨_, rfl⟩⟩
  intro w tick rest d h hd
  cases h
  rw [show decode 0x300000 = .ok (.step .b .ccw) by decide] at hd
  cases hd

theorem witness_StopsKeepTiming :
    ((Instr.stopAll = .stopAll ∨ ∃ k, Instr.stopAll = .stopMotor k) ∧
      (Instr.stopMotor .b = .stopAll ∨ ∃ k, Instr.stopMotor .b = .stopMotor k)) :=
  ⟨.inl rfl, .inr ⟨.b, rfl⟩⟩

theorem witness_RecombineKeepsOtherNibble :
    (demo .recombine 50).cfg.composeMode = .recombine ∧
    ((demo .recombine 50).now - (demo .recombine 50).deadline .b).msb = false := by decide

theorem witness_StepFrame :
    (∃ t, exec (.step .b .cw) (demo .literal 50) = .next t) ∧
    ∃ t, exec (.step .b .cw) (demo .literal 49) = .next t := ⟨⟨_, rfl⟩, ⟨_, rfl⟩⟩

theorem witness_ControlFrame :
    (∃ t, exec .nop (demo .literal 50) = .next t) ∧
    ∃ t, exec (.setDelay 256) (demo .literal 50) = .next t := ⟨⟨_, rfl⟩, ⟨_, rfl⟩⟩

theorem witness_StopFrame :
    (∃ t, exec .stopAll (demo .literal 50) = .next t) ∧
    ∃ t, exec (.stopMotor .a) (demo .recombine 50) = .next t := ⟨⟨_, rfl⟩, ⟨_, rfl⟩⟩

/-- A command that samples its tick, and the one that does not (R100). -/
theorem witness_StepRunsDecodedCommand :
    ((demoInput .literal (.command 0x200000 50)).inputs = [.command 0x200000 50] ∧
      decode 0x200000 = .ok (.step .a .ccw)) ∧
    (demoInput .literal (.command 0x000000 60)).inputs = [.command 0x000000 60] ∧
    decode 0x000000 = .ok .nop := ⟨⟨rfl, by decide⟩, rfl, by decide⟩

theorem witness_NopSamplesNoTick :
    (demoInput .literal (.command 0x000000 60)).inputs = [.command 0x000000 60] := rfl

/-- R100, R41: from the sample 50, a NOP at tick 60 keeps it and a STOP_ALL at tick 60 takes 60. -/
theorem test_nop_samples_no_tick :
    ([(0x000000 : CommandWord), 0x600000].map fun w =>
      (nextState (step (demoInput .literal (.command w 60)))).map fun t => t.now.toNat) =
    [some 50, some 60] := by decide

theorem witness_FetchWordRunsNext : decodeTableWord 24 0x600000 = some .stopAll := by decide

theorem witness_IdleStepKeepsState : (demo .literal 50).inputs = [] := rfl

/-- Also the witness of RegisterOutputsFollow (a command that transmits and one that does not). -/
theorem witness_ResponseBits :
    ((demoInput .literal (.command 0x200000 50)).inputs = [.command 0x200000 50] ∧
      (∃ t, step (demoInput .literal (.command 0x200000 50)) = .next t) ∧
      wholeGestures (demoInput .literal (.command 0x200000 50)).outputs = true) ∧
    (demoInput .literal (.command 0x000000 50)).inputs = [.command 0x000000 50] ∧
    (∃ t, step (demoInput .literal (.command 0x000000 50)) = .next t) ∧
    wholeGestures (demoInput .literal (.command 0x000000 50)).outputs = true :=
  ⟨⟨rfl, ⟨_, rfl⟩, by decide⟩, rfl, ⟨_, rfl⟩, by decide⟩

theorem witness_OneBytePerTransmission :
    (∃ t, exec .nop (demo .literal 50) = .next t) ∧
    (∃ t, exec (.setDelay 257) (demo .literal 50) = .next t) ∧
    (∃ t, exec (.step .a .cw) (demo .literal 49) = .next t) ∧
    (∃ t, exec .stopAll (demo .literal 50) = .next t) ∧
    (∃ t, exec (.stopMotor .b) (demo .literal 50) = .next t) ∧
    ((∀ i, decode 0xA00000 ≠ .ok i) ∧
      ∃ t, step (demoInput .literal (.command 0xA00000 50)) = .next t) ∧
    ∃ t, step (demoInput .literal (.reset 9)) = .next t := by
  refine ⟨⟨_, rfl⟩, ⟨_, rfl⟩, ⟨_, rfl⟩, ⟨_, rfl⟩, ⟨_, rfl⟩, ⟨?_, ⟨_, rfl⟩⟩, ⟨_, rfl⟩⟩
  intro i h
  rw [show decode 0xA00000 = .error .reservedOp by decide] at h
  cases h

/-- A step of each kind; the witness of ConfigNeverChanges, PhaseWriters, DeadlineWriters, DelayWriters and
LogsOnlyGrow too. -/
theorem witness_StepKinds :
    (∃ t, step (demo .literal 50) = .next t) ∧
    (∃ t, step (demoInput .literal (.command 0x200000 50)) = .next t) ∧
    (∃ t, step (demoInput .literal (.command 0x400100 50)) = .next t) ∧
    (∃ t, step (demoInput .literal (.command 0xFFFFFF 50)) = .next t) ∧
    (∃ t, step (demoInput .literal (.reset 9)) = .next t) ∧
    ∃ t, step (demoInput .literal (.resetDuring 0x600000 50 .after 9)) = .next t :=
  ⟨⟨_, rfl⟩, ⟨_, rfl⟩, ⟨_, rfl⟩, ⟨_, rfl⟩, ⟨_, rfl⟩, ⟨_, rfl⟩⟩

/-- D3, D7: the smallest tick width and the largest reset delay allowed. -/
theorem witness_ResetMeetsInvariants :
    Config.wellFormed { tickW := 10, delayReset := 256, composeMode := .recombine } = true := by decide

/-- A state that meets the register invariant, with a largest delay to be stored. -/
theorem witness_StepKeepsRegisterInvariant :
    (demoInput .literal (.command 0x400100 50)).Inv ∧
    ∃ t, step (demoInput .literal (.command 0x400100 50)) = .next t := by
  refine ⟨?_, ⟨_, rfl⟩⟩
  unfold State.Inv; decide

theorem witness_StepKeepsWholeGestures :
    wholeGestures (demoInput .literal (.resetDuring 0x600000 50 .during 9)).outputs = true ∧
    ∃ t, step (demoInput .literal (.resetDuring 0x600000 50 .during 9)) = .next t :=
  ⟨by decide, ⟨_, rfl⟩⟩

theorem witness_StepKeepsLegalBytes :
    (demoInput .recombine (.command 0x200000 50)).SendsLegal ∧
    ∃ t, step (demoInput .recombine (.command 0x200000 50)) = .next t := by
  refine ⟨?_, ⟨_, rfl⟩⟩
  unfold State.SendsLegal; decide

/-- A log whose last byte is the one held, with one more byte to send. -/
theorem witness_StepKeepsLastByte :
    let s : State := { demoInput .literal (.command 0x200000 50) with
      outputs := [.latch 1, .busBegin, .latch 0, .tx 0xC9, .latch 1] }
    s.lastByte = lastSent s.outputs ∧ ∃ t, step s = .next t := ⟨by decide, ⟨_, rfl⟩⟩

/-- A log that already holds a byte of one motor, with one more byte to send. -/
theorem witness_LiteralOneMotorPerByte :
    let s : State := { demoInput .literal (.command 0x300000 50) with
      outputs := [.latch 1, .busBegin, .latch 0, .tx 0x09, .latch 1] }
    s.cfg.composeMode = .literal ∧
    (∀ b ∈ s.trace, slotNibble .a b = 0 ∨ slotNibble .b b = 0) ∧ ∃ t, step s = .next t :=
  ⟨rfl, by decide, ⟨_, rfl⟩⟩

/-- A reset between commands, each point of a STEP that fires, and a NOP that a reset ends. -/
theorem witness_ResetAndRegisterOutputs :
    (wholeGestures (demo .literal 50).outputs = true ∧
      (demoInput .literal (.reset 9)).inputs = [.reset 9]) ∧
    (∀ point : CutPoint, (demoInput .literal (.resetDuring 0x200000 50 point 9)).inputs =
      [.resetDuring 0x200000 50 point 9]) ∧
    (∃ u, step (demoInput .literal (.command 0x200000 50)) = .next u ∧
      u.outputs ≠ (demoInput .literal (.command 0x200000 50)).outputs) ∧
    ∃ u, step (demoInput .literal (.command 0x000000 50)) = .next u ∧
      u.outputs = (demoInput .literal (.command 0x000000 50)).outputs :=
  ⟨⟨by decide, rfl⟩, fun _ => rfl, ⟨_, rfl, by decide⟩, _, rfl, by decide⟩

/-- R233: what is left at each point of a STEP A, CCW that a reset ends (from phase 2, LITERAL: 0x06). -/
theorem test_reset_points :
    (([CutPoint.before, .during, .after].map fun p =>
      nextState (step (demoInput .literal (.resetDuring 0x200000 50 p 60)))).map
      fun t => t.map fun t => (t.registerOutputs, t.trace)) =
    [some (none, []), some (none, []), some (some 0x06, [0x06])] := by decide

/-- The numerals 65535 (0xFFFF) and 65536, leading zeros, and letters of both sizes. -/
theorem test_amount_numerals :
    (["0xFFFF", "65536", "007", "0x1aB"].map parseAmount) =
      [some 65535, some 65536, some 7, some 0x1AB] := by decide

/-- The texts of neither form: empty, 0x alone, a letter in a decimal numeral, a capital X, a letter past F. -/
theorem test_amount_refused :
    (["", "0x", "1A", "0X1", "0xG"].map parseAmount) = [none, none, none, none, none] := by decide

/-- The two texts at the edge of the clause that refuses, and an amount on either side of the bound. -/
theorem witness_AssemblerOperands :
    ¬ ("".toList ≠ [] ∧ ∀ c ∈ "".toList, c ∈ "0123456789".toList) ∧
    ¬ (∃ cs, "".toList = '0' :: 'x' :: cs ∧ cs ≠ [] ∧
      ∀ c ∈ cs, c ∈ "0123456789ABCDEFabcdef".toList) ∧
    ¬ ("0x".toList ≠ [] ∧ ∀ c ∈ "0x".toList, c ∈ "0123456789".toList) ∧
    ¬ (∃ cs, "0x".toList = '0' :: 'x' :: cs ∧ cs ≠ [] ∧
      ∀ c ∈ cs, c ∈ "0123456789ABCDEFabcdef".toList) ∧
    parseAmount "0xFFFF" = some 65535 ∧ parseAmount "65536" = some 65536 := by
  refine ⟨by simp, by simp, by simp, ?_, by decide, by decide⟩
  rintro ⟨cs, h, hne, -⟩
  simp at h
  exact hne h

end Sys2Proof.Tests
end

section
/-! PROOFS. The statements of 00_scope.md: the build parameters are fixed (R7, R8), and a step runs the command
its word decodes to (R12). -/

namespace Sys2Proof.Machine

/-! ### The build parameters -/

/-- R8: no command writes a build parameter. -/
theorem exec_cfg {i : Instr} {s t : State} (h : exec i s = .next t) : t.cfg = s.cfg := by
  rcases exec_cases h with ⟨-, rfl⟩ | ⟨m, d, -, -, rfl⟩ | ⟨m, d, -, -, rfl⟩ | ⟨a, -, rfl⟩ | ⟨-, rfl⟩ |
    ⟨m, -, rfl⟩ <;> simp

/-- No word, legal or not, writes a build parameter (R8, R201). -/
theorem runWord_cfg {w : CommandWord} {s t : State} (h : runWord w s = .next t) : t.cfg = s.cfg := by
  rcases runWord_cases h with ⟨i, -, hexec⟩ | ⟨-, rfl⟩
  · exact exec_cfg hexec
  · exact s.raiseIllegalCommand_cfg w

/-- Settles O42: waiting, a word, a reset and a reset during a command each keep `cfg`. -/
theorem configNeverChanges : Obligations.ConfigNeverChanges := by
  unfold Obligations.ConfigNeverChanges
  intro s t h
  rcases step_cases h with ⟨-, rfl⟩ | ⟨w, tick, rest, -, hrun⟩ | ⟨tick, rest, -, rfl⟩ |
    ⟨w, tick, point, resetTick, rest, u, -, -, rfl⟩
  · rfl
  · rw [runWord_cfg hrun, State.accept_cfg]
  · exact State.resetBlock_cfg _ tick
  · exact State.resetBlock_cfg _ resetTick

/-! ### The command of a word -/

/-- The sample a legal command reads: the tick of its input, but the one held before for a NOP (R41, R100). -/
theorem State.tickSample_eq_ite {w : CommandWord} {i : Instr} (h : decode w = .ok i) (s : State)
    (tick : BitVec s.cfg.tickW) : s.tickSample w tick = if i = .nop then s.now else tick := by
  split
  · next hnop => exact State.tickSample_of_nop (hnop ▸ h) s tick
  · next hnop => exact State.tickSample_of_ok h hnop s tick

/-- Settles O36: the step takes the input, and the word it runs is the command it decodes to. -/
theorem stepRunsDecodedCommand : Obligations.StepRunsDecodedCommand := by
  unfold Obligations.StepRunsDecodedCommand
  intro s w tick rest i hinputs hdecode
  calc step s
    _ = runWord w (s.accept (s.tickSample w tick) rest) := step_of_command hinputs
    _ = exec i (s.accept (s.tickSample w tick) rest) := runWord_of_ok hdecode _
    _ = exec i (s.accept (if i = .nop then s.now else tick) rest) := by
      rw [State.tickSample_eq_ite hdecode]

end Sys2Proof.Machine
end

section
/-! PROOFS. The statements of 10_state.md: what a reset makes of the state (R44), what each kind of step may
write (R32 to R35), that the slots are independent (R34), the response bits (R43), and the invariants of the
registers and of the log (R35 to R37). -/

namespace Sys2Proof.Machine

/-! ### The reset -/

/-- Settles O7: each field is as `State.afterReset` writes it for the default build and tick 0, and the views of
its log hold no byte. -/
theorem resetStateFields : Obligations.ResetStateFields := by
  unfold Obligations.ResetStateFields
  exact ⟨rfl, rfl, rfl, rfl, rfl, rfl, rfl, rfl, rfl, rfl, rfl, rfl, rfl, rfl, rfl, rfl⟩

/-- Settles O8: the step takes the input and is `State.resetBlock`, which writes those fields. -/
theorem resetWritesEveryField : Obligations.ResetWritesEveryField := by
  unfold Obligations.ResetWritesEveryField
  intro s tick rest hinputs
  rw [step_of_reset hinputs]
  rfl

/-! ### The word of the next step -/

/-- An opcode-table word that is a command decodes to it. -/
theorem decode_of_decodeTableWord {nbits w : Nat} {i : Instr} (h : decodeTableWord nbits w = some i) :
    decode (BitVec.ofNat 24 (w % 2 ^ nbits)) = .ok i := by
  unfold decodeTableWord at h
  cases hd : decode (BitVec.ofNat 24 (w % 2 ^ nbits)) with
  | ok j => simpa [hd, Except.toOption] using h
  | error e => simp [hd, Except.toOption] at h

/-- A word taken with the tick of the sample held already leaves the sample as it is. -/
theorem State.tickSample_now (s : State) (w : CommandWord) : s.tickSample w s.now = s.now := by
  cases hd : decode w with
  | ok i => rw [State.tickSample_eq_ite hd, ite_self]
  | error e => exact State.tickSample_of_error hd s s.now

/-- Settles O37: the placed command carries the sample held already, so taking it gives back `s`. -/
theorem fetchWordRunsNext : Obligations.FetchWordRunsNext := by
  unfold Obligations.FetchWordRunsNext
  intro s nbits w i htable
  have hdecode := decode_of_decodeTableWord htable
  have htaken : (s.withFetchWord nbits w).accept
      ((s.withFetchWord nbits w).tickSample (BitVec.ofNat 24 (w % 2 ^ nbits)) s.now) s.inputs = s := by
    rw [show s.now = (s.withFetchWord nbits w).now from rfl, State.tickSample_now]
    rfl
  calc step (s.withFetchWord nbits w)
    _ = runWord (BitVec.ofNat 24 (w % 2 ^ nbits)) s := (step_of_command rfl).trans (congrArg _ htaken)
    _ = exec i s := runWord_of_ok hdecode s

/-! ### STEP and the two slots -/

/-- Everything a STEP can do: fire where its slot is due (R128), and only respond where it is not (R129). -/
theorem exec_step_cases {s t : State} {m : MotorSlot} {d : Direction} (h : exec (.step m d) s = .next t) :
    (isDue s.now (s.deadline m) = true ∧ t = s.fire m d) ∨
    (isDue s.now (s.deadline m) = false ∧ t = s.respond respPlain) := by
  rcases exec_cases h with ⟨hi, -⟩ | ⟨k, e, hi, hdue, rfl⟩ | ⟨k, e, hi, hdue, rfl⟩ | ⟨a, hi, -⟩ | ⟨hi, -⟩ |
    ⟨k, hi, -⟩ <;> cases hi
  · exact .inl ⟨hdue, rfl⟩
  · exact .inr ⟨hdue, rfl⟩

/-- A fired STEP keeps the other slot's registers and the sample, so also whether that slot is due (R34, R131
item 6). -/
theorem State.fire_other_kept (s : State) (m : MotorSlot) (d : Direction) :
    (s.fire m d).phase (otherSlot m) = s.phase (otherSlot m) ∧
    ((s.fire m d).deadline (otherSlot m)).toNat = (s.deadline (otherSlot m)).toNat ∧
    isDue (s.fire m d).now ((s.fire m d).deadline (otherSlot m)) =
      isDue s.now (s.deadline (otherSlot m)) := by
  rw [State.fire_spec]
  cases m <;> exact ⟨rfl, rfl, rfl⟩

/-- Settles O24: a fire by `State.fire_other_kept`, and a bare response writes no slot. -/
theorem otherSlotKept : Obligations.OtherSlotKept := by
  unfold Obligations.OtherSlotKept
  intro s t m d h
  rcases exec_step_cases h with ⟨-, rfl⟩ | ⟨-, rfl⟩
  · exact s.fire_other_kept m d
  · cases m <;> exact ⟨rfl, rfl, rfl⟩

/-- Settles O33: a fire writes its own slot by `State.fire_spec`, and a STEP that is not due keeps it. -/
theorem stepFrame : Obligations.StepFrame := by
  unfold Obligations.StepFrame
  intro s t m d h
  rcases exec_step_cases h with ⟨-, rfl⟩ | ⟨-, rfl⟩
  · refine ⟨nextPhase (s.phase m) d, nextDeadline s.now s.delay, s.stepByte m, 1, respFired,
      s.outputs ++ [.latch 0, .tx (s.stepByte m), .latch 1], s.responses ++ [respFired], ?_⟩
    rw [State.fire_spec]
    cases m <;> rfl
  · refine ⟨s.phase m, s.deadline m, s.lastByte, s.latch, respPlain, s.outputs,
      s.responses ++ [respPlain], ?_⟩
    cases m <;> rfl

/-- `s` with the registers of slot `k` replaced. -/
def State.withSlot (s : State) (k : MotorSlot) (p : Phase) (v : BitVec s.cfg.tickW) : State :=
  (s.setPhase k p).setDeadline k v

/-- A STEP of slot `m` neither reads nor writes the other slot's phase and deadline (R34). -/
theorem exec_step_withSlot_other (s : State) (m : MotorSlot) (p : Phase) (v : BitVec s.cfg.tickW)
    (d : Direction) :
    ∃ t u : State,
      exec (.step m d) s = .next t ∧
      exec (.step m d) (s.withSlot (otherSlot m) p v) = .next u ∧
      u.phase m = t.phase m ∧ (u.deadline m).toNat = (t.deadline m).toNat ∧ u.lastByte = t.lastByte ∧
      u.outputs = t.outputs ∧ u.resp = t.resp ∧ u.responses = t.responses ∧
      u.phase (otherSlot m) = p ∧ (u.deadline (otherSlot m)).toNat = v.toNat := by
  have hdeadline : (s.withSlot (otherSlot m) p v).deadline m = s.deadline m := by cases m <;> rfl
  have hbyte : (s.withSlot (otherSlot m) p v).stepByte m = s.stepByte m := by cases m <;> rfl
  cases hdue : isDue s.now (s.deadline m) with
  | true =>
    refine ⟨_, _, execStep_of_due d hdue, execStep_of_due d (hdeadline ▸ hdue), ?_⟩
    rw [State.fire_spec, State.fire_spec, hbyte]
    cases m <;> exact ⟨rfl, rfl, rfl, rfl, rfl, rfl, rfl, rfl⟩
  | false =>
    refine ⟨_, _, execStep_of_not_due d hdue, execStep_of_not_due d (hdeadline ▸ hdue), ?_⟩
    cases m <;> exact ⟨rfl, rfl, rfl, rfl, rfl, rfl, rfl, rfl⟩

/-- Settles O25: the STEP of either slot, run with the other slot's registers as they are and replaced. -/
theorem slotIndependence : Obligations.SlotIndependence := by
  unfold Obligations.SlotIndependence
  intro s p v d
  exact ⟨exec_step_withSlot_other s .a p v d, exec_step_withSlot_other s .b p v d⟩

/-! ### What a step may write -/

/-- A slot is the one served or the other one (R39: there are two). -/
theorem eq_or_eq_otherSlot (m k : MotorSlot) : k = m ∨ k = otherSlot m := by
  cases m <;> cases k <;> decide

/-- What a command does to the phase and the deadline of slot `k`: it keeps both, or it is a STEP of `k` that
fires (R32, R33). -/
theorem exec_slot_cases {i : Instr} {s t : State} (h : exec i s = .next t) (k : MotorSlot) :
    (t.phase k = s.phase k ∧ (t.deadline k).toNat = (s.deadline k).toNat) ∨
    ∃ d, i = .step k d ∧ isDue s.now (s.deadline k) = true ∧ t = s.fire k d := by
  rcases exec_cases h with ⟨-, rfl⟩ | ⟨m, d, rfl, hdue, rfl⟩ | ⟨m, d, -, -, rfl⟩ | ⟨a, -, rfl⟩ | ⟨-, rfl⟩ |
    ⟨m, -, rfl⟩
  case inr.inl =>
    rcases eq_or_eq_otherSlot m k with rfl | rfl
    · exact .inr ⟨d, rfl, hdue, rfl⟩
    · obtain ⟨hphase, hdeadline, -⟩ := s.fire_other_kept m d
      exact .inl ⟨hphase, hdeadline⟩
  all_goals exact .inl (by simp)

/-- What a step does to the phase and the deadline of slot `m`: it keeps both, fires slot `m`, or resets both,
between commands or during one (R32, R33, R44). -/
theorem step_slot_cases {s t : State} (h : step s = .next t) (m : MotorSlot) :
    (t.phase m = s.phase m ∧ (t.deadline m).toNat = (s.deadline m).toNat) ∨
    (∃ w tick rest d, s.inputs = .command w tick :: rest ∧ decode w = .ok (.step m d) ∧
      isDue tick (s.deadline m) = true ∧ t = (s.accept tick rest).fire m d) ∨
    (∃ tick rest, s.inputs = .reset tick :: rest ∧ t.phase m = 0 ∧
      (t.deadline m).toNat = tick.toNat) ∨
    ∃ w tick point resetTick rest, s.inputs = .resetDuring w tick point resetTick :: rest ∧
      t.phase m = 0 ∧ (t.deadline m).toNat = resetTick.toNat := by
  rcases step_cases h with ⟨-, rfl⟩ | ⟨w, tick, rest, hinputs, hrun⟩ | ⟨tick, rest, hinputs, rfl⟩ |
    ⟨w, tick, point, resetTick, rest, u, hinputs, -, rfl⟩
  · exact .inl ⟨rfl, rfl⟩
  · rcases runWord_cases hrun with ⟨i, hdecode, hexec⟩ | ⟨-, rfl⟩
    · rcases exec_slot_cases hexec m with ⟨hphase, hdeadline⟩ | ⟨d, rfl, hdue, rfl⟩
      · exact .inl ⟨hphase.trans (s.accept_phase ..), hdeadline.trans (congrArg _ (s.accept_deadline ..))⟩
      · rw [isDue_accept_tickSample hdecode] at hdue
        rw [State.tickSample_of_ok hdecode (by simp)]
        exact .inr (.inl ⟨w, tick, rest, d, hinputs, hdecode, hdue, rfl⟩)
    · exact .inl (by simp)
  · exact .inr (.inr (.inl ⟨tick, rest, hinputs, State.resetBlock_phase ..,
      congrArg _ (State.resetBlock_deadline ..)⟩))
  · exact .inr (.inr (.inr ⟨w, tick, point, resetTick, rest, hinputs, State.resetBlock_phase ..,
      congrArg _ (State.resetBlock_deadline ..)⟩))

/-- Settles O43: the phase in each case of `step_slot_cases`. -/
theorem phaseWriters : Obligations.PhaseWriters := by
  unfold Obligations.PhaseWriters
  intro s t m h
  rcases step_slot_cases h m with ⟨hphase, -⟩ | ⟨w, tick, rest, d, hinputs, hdecode, hdue, rfl⟩ |
    ⟨tick, rest, hinputs, hphase, -⟩ | ⟨w, tick, point, resetTick, rest, hinputs, hphase, -⟩
  · exact .inl hphase
  · refine .inr (.inl ⟨w, tick, rest, d, hinputs, hdecode, (isDue_iff _ _).1 hdue, ?_⟩)
    rw [State.fire_phase, State.accept_phase]
  · exact .inr (.inr ⟨.inl ⟨tick, rest, hinputs⟩, hphase⟩)
  · exact .inr (.inr ⟨.inr ⟨w, tick, point, resetTick, rest, hinputs⟩, hphase⟩)

/-- Settles O44: the deadline in each case of `step_slot_cases`. -/
theorem deadlineWriters : Obligations.DeadlineWriters := by
  unfold Obligations.DeadlineWriters
  intro s t m h
  rcases step_slot_cases h m with ⟨-, hdeadline⟩ | ⟨w, tick, rest, d, hinputs, hdecode, hdue, rfl⟩ |
    ⟨tick, rest, hinputs, -, hdeadline⟩ | ⟨w, tick, point, resetTick, rest, hinputs, -, hdeadline⟩
  · exact .inl hdeadline
  · refine .inr (.inl ⟨w, tick, rest, d, hinputs, hdecode, (isDue_iff _ _).1 hdue, ?_⟩)
    exact State.fire_deadline_toNat (s.accept tick rest) m d
  · exact .inr (.inr (.inl ⟨tick, rest, hinputs, hdeadline⟩))
  · exact .inr (.inr (.inr ⟨w, tick, point, resetTick, rest, hinputs, hdeadline⟩))

/-- An amount SET_DELAY accepts fits the 9-bit register (R101, R102). -/
theorem toNat_setWidth_of_delayAccepted {a : Amount} (h : delayAccepted a = true) :
    a.toNat ≤ Config.delayMax ∧ (a.setWidth 9).toNat = a.toNat := by
  have hle : a.toNat ≤ 256 := of_decide_eq_true h
  exact ⟨hle, by rw [BitVec.toNat_setWidth, Nat.mod_eq_of_lt (by omega)]⟩

/-- What a command does to the delay: it keeps it, or it is a SET_DELAY that is accepted (R35). -/
theorem exec_delay_cases {i : Instr} {s t : State} (h : exec i s = .next t) :
    t.delay = s.delay ∨ ∃ a, i = .setDelay a ∧ delayAccepted a = true ∧ t.delay = a.setWidth 9 := by
  rcases exec_cases h with ⟨-, rfl⟩ | ⟨m, d, -, -, rfl⟩ | ⟨m, d, -, -, rfl⟩ | ⟨a, rfl, rfl⟩ | ⟨-, rfl⟩ |
    ⟨m, -, rfl⟩
  case inr.inr.inr.inl =>
    cases ha : delayAccepted a with
    | true => exact .inr ⟨a, rfl, ha, by simp⟩
    | false => exact .inl (by simp)
  all_goals exact .inl (by simp)

/-- Settles O45: waiting and an illegal word keep the delay, a command does what `exec_delay_cases` says, and
either reset loads DELAY_RESET. -/
theorem delayWriters : Obligations.DelayWriters := by
  unfold Obligations.DelayWriters
  intro s t h
  rcases step_cases h with ⟨-, rfl⟩ | ⟨w, tick, rest, hinputs, hrun⟩ | ⟨tick, rest, hinputs, rfl⟩ |
    ⟨w, tick, point, resetTick, rest, u, hinputs, -, rfl⟩
  · exact .inl rfl
  · rcases runWord_cases hrun with ⟨i, hdecode, hexec⟩ | ⟨-, rfl⟩
    · rcases exec_delay_cases hexec with hdelay | ⟨a, rfl, haccepted, hdelay⟩
      · exact .inl hdelay
      · obtain ⟨hle, hvalue⟩ := toNat_setWidth_of_delayAccepted haccepted
        exact .inr (.inl ⟨w, tick, rest, a, hinputs, hdecode, hle, by rw [hdelay, hvalue]⟩)
    · exact .inl rfl
  · exact .inr (.inr ⟨.inl ⟨tick, rest, hinputs⟩, rfl⟩)
  · exact .inr (.inr ⟨.inr ⟨w, tick, point, resetTick, rest, hinputs⟩, rfl⟩)

/-! ### The response bits -/

/-- The response of a legal command: `fired` says whether it was a STEP whose slot was due, `illegal` is 0, and
it is the one response added to the log (R43). -/
theorem exec_resp {i : Instr} {s t : State} (h : exec i s = .next t) :
    (t.resp.fired = true ↔ ∃ m d, i = .step m d ∧ isDue s.now (s.deadline m) = true) ∧
    t.resp.illegal = false ∧ t.responses = s.responses ++ [t.resp] := by
  rcases exec_cases h with ⟨rfl, rfl⟩ | ⟨m, d, rfl, hdue, rfl⟩ | ⟨m, d, rfl, hdue, rfl⟩ | ⟨a, rfl, rfl⟩ |
    ⟨rfl, rfl⟩ | ⟨m, rfl, rfl⟩
  case inr.inl =>
    exact ⟨iff_of_true (by simp [respFired]) ⟨m, d, rfl, hdue⟩, by simp [respFired], by simp⟩
  case inr.inr.inl =>
    refine ⟨iff_of_false Bool.false_ne_true ?_, rfl, rfl⟩
    rintro ⟨k, e, hi, hk⟩
    cases hi
    rw [hdue] at hk
    cases hk
  all_goals simp [respPlain]

/-- Settles O40: a legal word by `exec_resp`, whose due test reads the command's own tick; an illegal word by
the response of IllegalCommand. -/
theorem responseBits : Obligations.ResponseBits := by
  unfold Obligations.ResponseBits
  intro s t w tick rest hinputs hstep
  rw [step_of_command hinputs] at hstep
  rcases runWord_cases hstep with ⟨i, hdecode, hexec⟩ | ⟨⟨e, hdecode⟩, rfl⟩
  · obtain ⟨hfired, hillegal, hresponses⟩ := exec_resp hexec
    refine ⟨hfired.trans ?_, iff_of_false (by simp [hillegal]) fun hnone => hnone i hdecode, hresponses⟩
    constructor
    · rintro ⟨m, d, rfl, hdue⟩
      rw [isDue_accept_tickSample hdecode, isDue_iff] at hdue
      exact ⟨m, d, hdecode, hdue⟩
    · rintro ⟨m, d, hstepWord, hdue⟩
      obtain rfl : i = .step m d := Except.ok.inj (hdecode.symm.trans hstepWord)
      exact ⟨m, d, rfl, by rwa [isDue_accept_tickSample hdecode, isDue_iff]⟩
  · exact ⟨by simp [respIllegal, hdecode], by simp [respIllegal, hdecode], rfl⟩

/-! ### The register invariant -/

/-- An allowed build's delay after reset is within DELAY_MAX (D7). -/
theorem delayReset_le_of_wellFormed {c : Config} (h : c.wellFormed = true) :
    c.delayReset.toNat ≤ Config.delayMax := by
  simp only [Config.wellFormed, Bool.and_eq_true, decide_eq_true_eq] at h
  exact h.2

/-- The register invariant holds only in allowed builds. -/
theorem State.Inv.wellFormed {s : State} (h : s.Inv) : s.cfg.wellFormed = true := h.left

/-- A block whose delay is its reset value, with the latch idle and a plain response, meets the invariant. -/
theorem State.inv_of_reset_registers {s : State} (hcfg : s.cfg.wellFormed = true)
    (hdelay : s.delay = s.cfg.delayReset) (hlatch : s.latch = 1) (hresp : s.resp = respPlain) : s.Inv :=
  ⟨hcfg, hdelay ▸ delayReset_le_of_wellFormed hcfg, hlatch, by simp [hresp, respPlain]⟩

/-- A reset of an allowed build establishes the invariant, whatever the other registers held (R44). -/
theorem State.resetBlock_inv {s : State} (h : s.cfg.wellFormed = true) (tick : BitVec s.cfg.tickW) :
    (s.resetBlock tick).Inv :=
  State.inv_of_reset_registers h rfl rfl rfl

/-- The latch line is idle again after every command (R37). -/
theorem exec_latch {i : Instr} {s t : State} (h : exec i s = .next t) (hs : s.latch = 1) : t.latch = 1 := by
  rcases exec_cases h with ⟨-, rfl⟩ | ⟨m, d, -, -, rfl⟩ | ⟨m, d, -, -, rfl⟩ | ⟨a, -, rfl⟩ | ⟨-, rfl⟩ |
    ⟨m, -, rfl⟩ <;> simp [hs]

/-- Every command keeps the register invariant: the delay stays within DELAY_MAX since SET_DELAY accepts no
larger amount (R101), and a legal command never answers `illegal` (R204). -/
theorem exec_inv {i : Instr} {s t : State} (h : exec i s = .next t) (hs : s.Inv) : t.Inv := by
  obtain ⟨hcfg, hdelay, hlatch, -⟩ := hs
  obtain ⟨-, hillegal, -⟩ := exec_resp h
  refine ⟨exec_cfg h ▸ hcfg, ?_, exec_latch h hlatch, by simp [hillegal]⟩
  rcases exec_delay_cases h with hkept | ⟨a, -, haccepted, hset⟩
  · rwa [hkept]
  · obtain ⟨hle, hvalue⟩ := toNat_setWidth_of_delayAccepted haccepted
    rwa [hset, hvalue]

/-- Every word keeps the register invariant. -/
theorem runWord_inv {w : CommandWord} {s t : State} (h : runWord w s = .next t) (hs : s.Inv) : t.Inv := by
  rcases runWord_cases h with ⟨i, -, hexec⟩ | ⟨-, rfl⟩
  · exact exec_inv hexec hs
  · obtain ⟨hcfg, hdelay, hlatch, -⟩ := hs
    exact ⟨hcfg, hdelay, hlatch, by simp [respIllegal]⟩

/-- Settles O48: a word keeps the invariant (taking the input touches none of its registers), and either reset
establishes it anew. -/
theorem stepKeepsRegisterInvariant : Obligations.StepKeepsRegisterInvariant := by
  unfold Obligations.StepKeepsRegisterInvariant
  intro s t hs h
  rcases step_cases h with ⟨-, rfl⟩ | ⟨w, tick, rest, -, hrun⟩ | ⟨tick, rest, -, rfl⟩ |
    ⟨w, tick, point, resetTick, rest, u, -, -, rfl⟩
  · exact hs
  · exact runWord_inv hrun hs
  · exact State.resetBlock_inv hs.wellFormed tick
  · exact State.resetBlock_inv hs.wellFormed resetTick

/-! ### The invariants of the log -/

/-- A word adds nothing to the log or one whole transmission (R62, R66). -/
theorem runWord_wholeGestures {w : CommandWord} {s t : State} (h : runWord w s = .next t)
    (hs : wholeGestures s.outputs = true) : wholeGestures t.outputs = true := by
  rcases runWord_outputs h with ⟨hkept, -⟩ | hsent
  · rwa [hkept]
  · rw [hsent, wholeGestures_append _ _ hs]
    simp [wholeGestures]

/-- A reset between commands adds the whole gesture of R230. -/
theorem wholeGestures_append_reset {l : List OutEvent} (h : wholeGestures l = true) :
    wholeGestures (l ++ [.latch 1, .busBegin]) = true := by
  rw [wholeGestures_append _ _ h]
  simp [wholeGestures]

/-- Whatever a command had sent when a reset ended it, the reset's own outputs complete the log to whole
gestures (R233, log 7). -/
theorem wholeGestures_cutOutputs_append_reset (point : CutPoint) {start full : List OutEvent}
    (hstart : wholeGestures start = true) (hfull : wholeGestures full = true) :
    wholeGestures (cutOutputs point start full ++ [.latch 1, .busBegin]) = true := by
  cases point with
  | before => exact wholeGestures_append_reset hstart
  | during =>
    rw [cutOutputs]
    split
    · exact wholeGestures_append_reset hstart
    · rw [List.append_assoc, wholeGestures_append _ _ hstart]
      simp [wholeGestures]
  | after => exact wholeGestures_append_reset hfull

/-- Settles O49: each kind of step adds whole gestures, the cut one being completed by its reset. -/
theorem stepKeepsWholeGestures : Obligations.StepKeepsWholeGestures := by
  unfold Obligations.StepKeepsWholeGestures
  intro s t hs h
  rcases step_cases h with ⟨-, rfl⟩ | ⟨w, tick, rest, -, hrun⟩ | ⟨tick, rest, -, rfl⟩ |
    ⟨w, tick, point, resetTick, rest, u, -, hrun, rfl⟩
  · exact hs
  · exact runWord_wholeGestures hrun hs
  · exact wholeGestures_append_reset hs
  · exact wholeGestures_cutOutputs_append_reset point hs (runWord_wholeGestures hrun hs)

/-- A word that transmits remembers the byte it sent, and one that does not keeps the one held (R36). -/
theorem runWord_lastByte {w : CommandWord} {s t : State} (h : runWord w s = .next t)
    (hs : s.lastByte = lastSent s.outputs) : t.lastByte = lastSent t.outputs := by
  rcases runWord_outputs h with ⟨hlog, hbyte⟩ | hsent
  · rw [hlog, hbyte, hs]
  · rw [hsent, lastSent_append_tx]

/-- Settles O51: a word keeps the two equal, and either reset makes both 0x00, whatever stands before its
outputs in the log (R44). -/
theorem stepKeepsLastByte : Obligations.StepKeepsLastByte := by
  unfold Obligations.StepKeepsLastByte
  intro s t hs h
  rcases step_cases h with ⟨-, rfl⟩ | ⟨w, tick, rest, -, hrun⟩ | ⟨tick, rest, -, rfl⟩ |
    ⟨w, tick, point, resetTick, rest, u, -, -, rfl⟩
  · exact hs
  · exact runWord_lastByte hrun hs
  · exact (lastSent_append_reset s.outputs 1).symm
  · exact (lastSent_append_reset (cutOutputs point s.outputs u.outputs) 1).symm

/-! ### The invariants after a reset -/

/-- The first reset of an allowed build establishes the register invariant (R44). -/
theorem State.afterReset_inv {c : Config} (h : c.wellFormed = true) (tick : BitVec c.tickW) :
    (State.afterReset c tick).Inv :=
  State.inv_of_reset_registers h rfl rfl rfl

/-- The log of a first reset is its own gesture, without a byte (R230). -/
theorem State.afterReset_log (c : Config) (tick : BitVec c.tickW) :
    wholeGestures (State.afterReset c tick).outputs = true ∧ (State.afterReset c tick).SendsLegal ∧
    (State.afterReset c tick).lastByte = lastSent (State.afterReset c tick).outputs := by
  have hlegal : (State.afterReset c tick).SendsLegal :=
    ⟨show legalByte 0x00 = true by decide, fun b hb => absurd hb List.not_mem_nil⟩
  exact ⟨wholeGestures_append_reset (l := []) rfl, hlegal, rfl⟩

/-- Settles O47: the lemmas on any first reset, and the default build as one of them. -/
theorem resetMeetsInvariants : Obligations.ResetMeetsInvariants := by
  unfold Obligations.ResetMeetsInvariants
  exact ⟨fun _ tick hc => State.afterReset_inv hc tick, State.afterReset_log,
    State.afterReset_inv (by decide) 0, State.afterReset_log Config.default 0⟩

end Sys2Proof.Machine
end

section
/-! PROOFS. The statements of 20_memory.md: `Transmit` (R62), which commands send a byte (R61), the bit order
(R63), the device's outputs (R67), and that a step only adds to the logs. -/

namespace Sys2Proof.Machine

/-! ### The transmission and the trace -/

/-- Settles O14: `State.transmit_spec` with the log written out. -/
theorem transmitSequence : Obligations.TransmitSequence := by
  unfold Obligations.TransmitSequence
  intro s b
  obtain ⟨out, rfl, htransmit⟩ := s.transmit_spec b
  exact htransmit

section

variable (s : State)

@[simp] theorem State.transmit_trace (b : Byte) : (s.transmit b).trace = s.trace ++ [b] := by
  simp [State.trace]

@[simp] theorem State.respond_trace (r : Response) : (s.respond r).trace = s.trace := rfl

@[simp] theorem State.setDelay_trace (v : DelayReg) : (s.setDelay v).trace = s.trace := rfl

@[simp] theorem State.fire_trace (m : MotorSlot) (d : Direction) :
    (s.fire m d).trace = s.trace ++ [s.stepByte m] := by
  simp [State.trace]

@[simp] theorem State.raiseIllegalCommand_trace (w : CommandWord) :
    (s.raiseIllegalCommand w).trace = s.trace := rfl

@[simp] theorem State.accept_trace (tick : BitVec s.cfg.tickW) (rest : List (HostInput s.cfg.tickW)) :
    (s.accept tick rest).trace = s.trace := rfl

@[simp] theorem State.resetBlock_trace (tick : BitVec s.cfg.tickW) : (s.resetBlock tick).trace = s.trace := by
  simp [State.trace]

end

/-- What a legal command adds to the trace, command by command (R61). -/
theorem exec_trace {i : Instr} {s t : State} (h : exec i s = .next t) :
    t.trace = s.trace ++
      match i with
      | .nop => []
      | .setDelay _ => []
      | .step _ _ => if t.resp.fired = true then [t.lastByte] else []
      | .stopAll => [t.lastByte]
      | .stopMotor _ => [t.lastByte] := by
  rcases exec_cases h with ⟨rfl, rfl⟩ | ⟨m, d, rfl, -, rfl⟩ | ⟨m, d, rfl, -, rfl⟩ | ⟨a, rfl, rfl⟩ |
    ⟨rfl, rfl⟩ | ⟨m, rfl, rfl⟩
  case inr.inl => simp [respFired]
  case inr.inr.inl => simp [respPlain]
  all_goals simp

/-- An illegal word sends nothing (R201). -/
theorem runWord_trace_of_illegal {w : CommandWord} {s t : State} (hw : ∀ i : Instr, decode w ≠ .ok i)
    (h : runWord w s = .next t) : t.trace = s.trace := by
  rcases runWord_cases h with ⟨i, hdecode, -⟩ | ⟨-, rfl⟩
  · exact absurd hdecode (hw i)
  · exact s.raiseIllegalCommand_trace w

/-- Settles O41: the commands by `exec_trace`; an illegal word and a reset send nothing. -/
theorem oneBytePerTransmission : Obligations.OneBytePerTransmission := by
  unfold Obligations.OneBytePerTransmission
  refine ⟨fun i s t h => ?_, fun s t w tick rest hinputs hw h => ?_, fun s t tick rest hinputs h => ?_⟩
  · have htrace := exec_trace h
    refine ⟨?_, ?_, ?_, ?_, ?_⟩
    · rintro rfl; simpa using htrace
    · rintro a rfl; simpa using htrace
    · rintro m d rfl; exact htrace
    · rintro rfl; exact htrace
    · rintro m rfl; exact htrace
  · rw [step_of_command hinputs] at h
    rw [runWord_trace_of_illegal hw h, State.accept_trace]
  · rw [step_of_reset hinputs] at h
    cases h
    exact State.resetBlock_trace _ tick

/-! ### The bit order -/

/-- Bits shifted in stand in the register last bit lowest, whatever it held before. -/
theorem getElem?_reverse_eq_getLsbD_shiftIn (r : Byte) (bits : List Bool) :
    ∀ k < 8, k < bits.length → bits.reverse[k]? = some ((shiftIn r bits).getLsbD k) := by
  induction bits using List.reverseRecOn with
  | nil => simp
  | append_singleton bits x ih =>
    intro k hk hlen
    have hshift : shiftIn r (bits ++ [x]) = shiftIn r bits <<< 1 ||| (BitVec.ofBool x).setWidth 8 := by
      simp [shiftIn]
    cases k with
    | zero => simp [hshift]
    | succ k =>
      have hbit := ih k (by omega) (by simpa using hlen)
      simp [hshift, hbit, hk, BitVec.getLsbD_eq_getElem (Nat.lt_of_succ_lt hk)]

/-- The `k`-th bit sent is bit `7 - k` (R63). -/
theorem serialBits_getElem? (b : Byte) : ∀ k < 8, (serialBits b)[k]? = some (b.getLsbD (7 - k)) := by
  intro k hk
  interval_cases k <;> rfl

/-- Eight shifts leave the byte: bit `k` is the one sent `7 - k`-th (R63). -/
theorem shiftIn_serialBits (r b : Byte) : shiftIn r (serialBits b) = b := by
  refine BitVec.eq_of_getLsbD_eq fun k hk => Option.some.inj ?_
  have hlen : (serialBits b).length = 8 := rfl
  rw [← getElem?_reverse_eq_getLsbD_shiftIn r _ k hk (hlen ▸ hk), List.getElem?_reverse (hlen ▸ hk), hlen,
    serialBits_getElem? b _ (by omega)]
  congr 2
  omega

/-- Settles O53: the order the bits are sent in, and the register after them. -/
theorem serialOrder : Obligations.SerialOrder := by
  unfold Obligations.SerialOrder
  exact fun b r => ⟨serialBits_getElem? b, rfl, shiftIn_serialBits r b⟩

/-! ### The register outputs -/

/-- A transmission with nothing staged before it puts its byte on the register outputs (R62, R67). -/
theorem deviceAfter_append_transmit {l : List OutEvent} (h : (deviceAfter l).staged = none) (b : Byte) :
    (deviceAfter (l ++ [.latch 0, .tx b, .latch 1])).outputs = some b := by
  rw [deviceAfter_append]
  simp [DeviceView.event, h, shiftIn_serialBits]

/-- Settles O54: a word adds nothing to the log, or one transmission after whole gestures, which leave nothing
staged; the trace tells the two apart. -/
theorem registerOutputsFollow : Obligations.RegisterOutputsFollow := by
  unfold Obligations.RegisterOutputsFollow
  intro s t w tick rest hwhole hinputs h
  rw [step_of_command hinputs] at h
  rcases runWord_outputs h with ⟨hkept, -⟩ | hsent
  · rw [State.accept_outputs] at hkept
    exact ⟨fun _ => by rw [State.registerOutputs, hkept]; rfl,
      fun hne => absurd (congrArg txBytes hkept) hne⟩
  · rw [State.accept_outputs] at hsent
    have htrace : t.trace = s.trace ++ [t.lastByte] := by simp [State.trace, hsent]
    have hstaged : (deviceAfter s.outputs).staged = none := wholeGestures_staged _ hwhole _ rfl
    exact ⟨fun heq => by simp [heq] at htrace,
      fun _ => by rw [State.registerOutputs, hsent, deviceAfter_append_transmit hstaged]⟩

/-! ### The logs -/

/-- `after` is `before` with at most `n` entries added at the end. -/
def GrowsBy {α : Type} (n : Nat) (before after : List α) : Prop :=
  ∃ more, after = before ++ more ∧ more.length ≤ n

theorem GrowsBy.of_eq {α : Type} {l k : List α} (n : Nat) (h : k = l) : GrowsBy n l k :=
  ⟨[], by simpa using h, n.zero_le⟩

theorem GrowsBy.of_append {α : Type} {l k more : List α} {n : Nat} (h : k = l ++ more)
    (hn : more.length ≤ n) : GrowsBy n l k :=
  ⟨more, h, hn⟩

theorem GrowsBy.mono {α : Type} {l k : List α} {n m : Nat} (h : GrowsBy n l k) (hnm : n ≤ m) :
    GrowsBy m l k := by
  obtain ⟨more, hk, hn⟩ := h
  exact ⟨more, hk, hn.trans hnm⟩

theorem GrowsBy.append {α : Type} {l k : List α} {n : Nat} (h : GrowsBy n l k) (more : List α) :
    GrowsBy (n + more.length) l (k ++ more) := by
  obtain ⟨first, rfl, hn⟩ := h
  exact ⟨first ++ more, by simp, by simpa using hn⟩

/-- A legal command raises no IllegalCommand (R201). -/
theorem exec_illegals {i : Instr} {s t : State} (h : exec i s = .next t) : t.illegals = s.illegals := by
  rcases exec_cases h with ⟨-, rfl⟩ | ⟨m, d, -, -, rfl⟩ | ⟨m, d, -, -, rfl⟩ | ⟨a, -, rfl⟩ | ⟨-, rfl⟩ |
    ⟨m, -, rfl⟩ <;> simp

/-- A word adds at most one transmission to the outputs (R62). -/
theorem runWord_outputs_growsBy {w : CommandWord} {s t : State} (h : runWord w s = .next t) :
    GrowsBy 3 s.outputs t.outputs := by
  rcases runWord_outputs h with ⟨hkept, -⟩ | hsent
  · exact .of_eq 3 hkept
  · exact .of_append hsent le_rfl

/-- A word adds one response, and an IllegalCommand only where it is illegal (R43, R201). -/
theorem runWord_responses_illegals_growBy {w : CommandWord} {s t : State} (h : runWord w s = .next t) :
    GrowsBy 1 s.responses t.responses ∧ GrowsBy 1 s.illegals t.illegals := by
  rcases runWord_cases h with ⟨i, -, hexec⟩ | ⟨-, rfl⟩
  · obtain ⟨-, -, hresponses⟩ := exec_resp hexec
    exact ⟨.of_append hresponses le_rfl, .of_eq 1 (exec_illegals hexec)⟩
  · exact ⟨.of_append (s.raiseIllegalCommand_responses w) le_rfl,
      .of_append (s.raiseIllegalCommand_illegals w) le_rfl⟩

/-- A command cut at any point has added no more than its whole transmission (R233). -/
theorem cutOutputs_growsBy (point : CutPoint) {start full : List OutEvent} (h : GrowsBy 3 start full) :
    GrowsBy 3 start (cutOutputs point start full) := by
  cases point with
  | before => exact .of_eq 3 rfl
  | during =>
    rw [cutOutputs]
    split
    · exact .of_eq 3 rfl
    · exact .of_append rfl (by simp)
  | after => exact h

/-- Settles O46: a word adds to each log by the lemmas above, and a reset adds its two events, after those of
the command it may have cut. -/
theorem logsOnlyGrow : Obligations.LogsOnlyGrow := by
  unfold Obligations.LogsOnlyGrow
  intro s t h
  change GrowsBy 5 s.outputs t.outputs ∧ GrowsBy 1 s.responses t.responses ∧ GrowsBy 1 s.illegals t.illegals
  rcases step_cases h with ⟨-, rfl⟩ | ⟨w, tick, rest, -, hrun⟩ | ⟨tick, rest, -, rfl⟩ |
    ⟨w, tick, point, resetTick, rest, u, -, hrun, rfl⟩
  · exact ⟨.of_eq 5 rfl, .of_eq 1 rfl, .of_eq 1 rfl⟩
  · have houtputs := runWord_outputs_growsBy hrun
    have hothers := runWord_responses_illegals_growBy hrun
    exact ⟨houtputs.mono (by decide), hothers⟩
  · exact ⟨.of_append rfl (by simp), .of_eq 1 rfl, .of_eq 1 rfl⟩
  · exact ⟨(cutOutputs_growsBy point (runWord_outputs_growsBy hrun)).append [.latch 1, .busBegin],
      .of_eq 1 rfl, .of_eq 1 rfl⟩

end Sys2Proof.Machine
end

section
/-! PROOFS. The statements of 30_encoding.md: the decoder and the encoder undo each other (R81 to R84), the illegal
words (R86) and the number of legal ones (R88), and the assembler (R89, R90). -/

namespace Sys2Proof

open Laws

/-! ### A word and its fields -/

/-- A word is its five fields (R81). -/
theorem eq_of_fields {v w : CommandWord} (hop : opField v = opField w)
    (hm : v.getLsbD 20 = w.getLsbD 20) (hd : v.getLsbD 19 = w.getLsbD 19) (hz : zField v = zField w)
    (ha : amountField v = amountField w) : v = w := by
  refine BitVec.eq_of_getLsbD_eq fun k hk => ?_
  have hfield (start len : Nat) (h : v.extractLsb' start len = w.extractLsb' start len)
      (hlo : start ≤ k) (hhi : k < start + len) : v.getLsbD k = w.getLsbD k := by
    have hbit := congrArg (BitVec.getLsbD · (k - start)) h
    simpa [BitVec.getLsbD_extractLsb', Nat.add_sub_cancel' hlo, show k - start < len by omega] using hbit
  rcases (by omega : k < 16 ∨ (16 ≤ k ∧ k < 19) ∨ k = 19 ∨ k = 20 ∨ 21 ≤ k) with
    h | ⟨hlo, hhi⟩ | rfl | rfl | h
  · exact hfield 0 16 ha (by omega) (by omega)
  · exact hfield 16 3 hz hlo (by omega)
  · exact hd
  · exact hm
  · exact hfield 21 3 hop h (by omega)

theorem slotField_eq_a_iff (w : CommandWord) : slotField w = .a ↔ w.getLsbD 20 = false := by
  rw [slotField]; cases w.getLsbD 20 <;> decide

theorem directionField_eq_ccw_iff (w : CommandWord) : directionField w = .ccw ↔ w.getLsbD 19 = false := by
  rw [directionField]; cases w.getLsbD 19 <;> decide

/-- A word whose `z` is 000 is its other fields packed (R81). -/
theorem packWord_fields {w : CommandWord} (hz : zField w = 0) :
    packWord (opField w) (slotBit (slotField w)) (directionBit (directionField w)) (amountField w) = w := by
  have hslot : ∀ b : Bool, (slotBit (slotOfBit b)).getLsbD 0 = b := by decide
  have hdirection : ∀ b : Bool, (directionBit (directionOfBit b)).getLsbD 0 = b := by decide
  apply eq_of_fields
  case hm => rw [getLsbD_packWord]; exact hslot _
  case hd => rw [getLsbD_packWord]; exact hdirection _
  all_goals simp [hz]

/-! ### What each row selects, field by field (R83) -/

theorem OpcodeRow.selects_iff (r : OpcodeRow) (w : CommandWord) :
    r.selects w = true ↔ w &&& r.mask = r.value := by
  simp [OpcodeRow.selects]

/-- A row selects a word field by field (R81, R83). -/
theorem OpcodeRow.selects_iff_fields (r : OpcodeRow) (w : CommandWord) :
    r.selects w = true ↔
      opField w &&& opField r.mask = opField r.value ∧
      (w.getLsbD 20 && r.mask.getLsbD 20) = r.value.getLsbD 20 ∧
      (w.getLsbD 19 && r.mask.getLsbD 19) = r.value.getLsbD 19 ∧
      zField w &&& zField r.mask = zField r.value ∧
      amountField w &&& amountField r.mask = amountField r.value := by
  rw [OpcodeRow.selects_iff, ← BitVec.getLsbD_and, ← BitVec.getLsbD_and]
  simp only [opField, zField, amountField, ← BitVec.extractLsb'_and]
  constructor
  · intro h
    simp [h]
  · rintro ⟨hop, hm, hd, hz, ha⟩
    exact eq_of_fields hop hm hd hz ha

/-- A field that a mask covers is kept by it. -/
theorem and_ones : (∀ x : BitVec 3, x &&& 7#3 = x) ∧ ∀ x : BitVec 16, x &&& 65535#16 = x :=
  ⟨fun _ => BitVec.and_allOnes, fun _ => BitVec.and_allOnes⟩

theorem rowNop_selects_iff (w : CommandWord) : rowNop.selects w = true ↔
    opField w = 0b000 ∧ slotField w = .a ∧ directionField w = .ccw ∧ zField w = 0 ∧ amountField w = 0 := by
  simp [OpcodeRow.selects_iff_fields, slotField_eq_a_iff, directionField_eq_ccw_iff, rowNop, opField,
    zField, amountField, and_ones]

theorem rowStep_selects_iff (w : CommandWord) : rowStep.selects w = true ↔
    opField w = 0b001 ∧ zField w = 0 ∧ amountField w = 0 := by
  simp [OpcodeRow.selects_iff_fields, rowStep, opField, zField, amountField, and_ones]

theorem rowSetDelay_selects_iff (w : CommandWord) : rowSetDelay.selects w = true ↔
    opField w = 0b010 ∧ slotField w = .a ∧ directionField w = .ccw ∧ zField w = 0 := by
  simp [OpcodeRow.selects_iff_fields, slotField_eq_a_iff, directionField_eq_ccw_iff, rowSetDelay, opField,
    zField, amountField, and_ones]

theorem rowStopAll_selects_iff (w : CommandWord) : rowStopAll.selects w = true ↔
    opField w = 0b011 ∧ slotField w = .a ∧ directionField w = .ccw ∧ zField w = 0 ∧ amountField w = 0 := by
  simp [OpcodeRow.selects_iff_fields, slotField_eq_a_iff, directionField_eq_ccw_iff, rowStopAll, opField,
    zField, amountField, and_ones]

theorem rowStopMotor_selects_iff (w : CommandWord) : rowStopMotor.selects w = true ↔
    opField w = 0b100 ∧ directionField w = .ccw ∧ zField w = 0 ∧ amountField w = 0 := by
  simp [OpcodeRow.selects_iff_fields, directionField_eq_ccw_iff, rowStopMotor, opField,
    zField, amountField, and_ones]

/-! ### Decoding an encoded command -/

/-- The family RowSelects for every command. -/
theorem rowSelects_statement (i : Instr) : RowSelects.Statement i := by
  cases i with
  | nop => exact RowSelects.nop
  | step m d => exact RowSelects.step m d
  | setDelay a => exact RowSelects.setDelay a
  | stopAll => exact RowSelects.stopAll
  | stopMotor m => exact RowSelects.stopMotor m

/-- The decoder tries the rows in the order of the table; an encoded command passes those before its own, and
its operands are read back from their fields (R83, R84). -/
theorem decode_encode (i : Instr) : decode (encode i) = .ok i := by
  have hrow (r : OpcodeRow) (hr : r ∈ opcodeRows) :
      r.selects (encode i) = decide (r = RowSelects.rowOf i) := by
    rw [Bool.eq_iff_iff, decide_eq_true_iff]
    exact rowSelects_statement i r hr
  unfold decode
  rw [hrow rowNop (by decide), hrow rowStep (by decide), hrow rowSetDelay (by decide),
    hrow rowStopAll (by decide), hrow rowStopMotor (by decide)]
  cases i with
  | nop => rfl
  | step m d =>
    change Except.ok (Instr.step (slotField (encode (.step m d))) (directionField (encode (.step m d)))) = _
    rw [encode, slotField_packWord, directionField_packWord]
  | setDelay a =>
    change Except.ok (Instr.setDelay (amountField (encode (.setDelay a)))) = _
    rw [encode, amountField_packWord]
  | stopAll => rfl
  | stopMotor m =>
    change Except.ok (Instr.stopMotor (slotField (encode (.stopMotor m)))) = _
    rw [encode, slotField_packWord]

/-! ### Encoding a decoded command -/

theorem encode_of_rowNop_selects {w : CommandWord} (h : rowNop.selects w = true) : encode .nop = w := by
  obtain ⟨hop, hm, hd, hz, ha⟩ := (rowNop_selects_iff w).1 h
  have hpacked := packWord_fields hz
  rwa [hop, hm, hd, ha] at hpacked

theorem encode_of_rowStep_selects {w : CommandWord} (h : rowStep.selects w = true) :
    encode (.step (slotField w) (directionField w)) = w := by
  obtain ⟨hop, hz, ha⟩ := (rowStep_selects_iff w).1 h
  have hpacked := packWord_fields hz
  rwa [hop, ha] at hpacked

theorem encode_of_rowSetDelay_selects {w : CommandWord} (h : rowSetDelay.selects w = true) :
    encode (.setDelay (amountField w)) = w := by
  obtain ⟨hop, hm, hd, hz⟩ := (rowSetDelay_selects_iff w).1 h
  have hpacked := packWord_fields hz
  rwa [hop, hm, hd] at hpacked

theorem encode_of_rowStopAll_selects {w : CommandWord} (h : rowStopAll.selects w = true) :
    encode .stopAll = w := by
  obtain ⟨hop, hm, hd, hz, ha⟩ := (rowStopAll_selects_iff w).1 h
  have hpacked := packWord_fields hz
  rwa [hop, hm, hd, ha] at hpacked

theorem encode_of_rowStopMotor_selects {w : CommandWord} (h : rowStopMotor.selects w = true) :
    encode (.stopMotor (slotField w)) = w := by
  obtain ⟨hop, hd, hz, ha⟩ := (rowStopMotor_selects_iff w).1 h
  have hpacked := packWord_fields hz
  rwa [hop, hd, ha] at hpacked

/-- A legal word is the encoding of its command: the row that selected it fixes every bit but its operands
(R81, R86). -/
theorem encode_of_decode {w : CommandWord} {i : Instr} (h : decode w = .ok i) : encode i = w := by
  rcases selected_of_decode h with ⟨rfl, hrow⟩ | ⟨rfl, hrow⟩ | ⟨rfl, hrow⟩ | ⟨rfl, hrow⟩ | ⟨rfl, hrow⟩
  · exact encode_of_rowNop_selects hrow
  · exact encode_of_rowStep_selects hrow
  · exact encode_of_rowSetDelay_selects hrow
  · exact encode_of_rowStopAll_selects hrow
  · exact encode_of_rowStopMotor_selects hrow

/-- The decoder and the encoder name the same pairs of a word and a command. -/
theorem decode_eq_ok_iff (w : CommandWord) (i : Instr) : decode w = .ok i ↔ encode i = w :=
  ⟨encode_of_decode, fun h => h ▸ decode_encode i⟩

/-- R83: no word is selected by two rows, since the rows differ in `op` and every mask covers it. -/
theorem opcodeRows_pairwise_disjoint :
    opcodeRows.Pairwise fun r q => ∀ w : CommandWord, ¬ (r.selects w = true ∧ q.selects w = true) := by
  have hmask : ∀ r ∈ opcodeRows, opField r.mask = 7 := by decide
  have hvalue : opcodeRows.Pairwise fun r q => opField r.value ≠ opField q.value := by decide
  refine hvalue.imp_of_mem fun hr hq hne w ⟨hrw, hqw⟩ => hne ?_
  rw [← opField_of_selects (hmask _ hr) hrw, opField_of_selects (hmask _ hq) hqw]

end Sys2Proof

namespace Sys2Proof.Machine

/-! ### The decoder and the encoder -/

/-- Settles O1: each row reads back the operands its command was encoded with. -/
theorem decodeInvertsEncode : Obligations.DecodeInvertsEncode := by
  unfold Obligations.DecodeInvertsEncode
  exact decode_encode

/-- Settles O2: the row that selected the word fixes every bit but its operands. -/
theorem encodeInvertsDecode : Obligations.EncodeInvertsDecode := by
  unfold Obligations.EncodeInvertsDecode
  exact fun _ _ => encode_of_decode

/-- Settles O3, word by word. -/
theorem specWordsDecode : Obligations.SpecWordsDecode := by
  unfold Obligations.SpecWordsDecode
  decide

/-- Settles O4: a selected word is the encoding of the row's command with the operands in its fields. -/
theorem patternSelectsCommand : Obligations.PatternSelectsCommand := by
  unfold Obligations.PatternSelectsCommand
  refine ⟨fun w => ?_, opcodeRows_pairwise_disjoint⟩
  simp only [decode_eq_ok_iff]
  exact ⟨fun h => encode_of_rowNop_selects ((rowNop.selects_iff w).2 h),
    fun h => encode_of_rowStep_selects ((rowStep.selects_iff w).2 h),
    fun h => encode_of_rowSetDelay_selects ((rowSetDelay.selects_iff w).2 h),
    fun h => encode_of_rowStopAll_selects ((rowStopAll.selects_iff w).2 h),
    fun h => encode_of_rowStopMotor_selects ((rowStopMotor.selects_iff w).2 h)⟩

/-! ### The illegal words -/

/-- An encoded command has no mark of R86: a field it does not use is zero (R81). -/
theorem not_illegalWord_encode (i : Instr) : ¬ illegalWord (encode i) := by
  have hslot (op : BitVec 3) (d : BitVec 1) (a : Amount) : (packWord op 0 d a).getLsbD 20 = false := by
    rw [getLsbD_packWord]; rfl
  have hdirection (op : BitVec 3) (m : BitVec 1) (a : Amount) : (packWord op m 0 a).getLsbD 19 = false := by
    rw [getLsbD_packWord]; rfl
  unfold illegalWord
  cases i <;>
    simp only [encode, opField_packWord, zField_packWord, amountField_packWord, hslot, hdirection] <;> simp

/-- A word with no mark of R86 is legal: its `op` names a row, and that row selects it. -/
theorem exists_decode_of_not_illegalWord {w : CommandWord} (h : ¬ illegalWord w) :
    ∃ i, decode w = .ok i := by
  have hops : ∀ op : BitVec 3, op ≠ 5 → op ≠ 6 → op ≠ 7 →
      op = 0 ∨ op = 1 ∨ op = 2 ∨ op = 3 ∨ op = 4 := by decide
  unfold illegalWord at h
  have hz : zField w = 0 := by tauto
  have hslot (hop : opField w = 0 ∨ opField w = 2 ∨ opField w = 3) : slotField w = .a := by
    rw [slotField_eq_a_iff, ← Bool.not_eq_true]; tauto
  have hdirection (hop : opField w ≠ 1) : directionField w = .ccw := by
    rw [directionField_eq_ccw_iff, ← Bool.not_eq_true]; tauto
  have hamount (hop : opField w ≠ 2) : amountField w = 0 := by tauto
  simp only [decode_eq_ok_iff]
  rcases hops (opField w) (by tauto) (by tauto) (by tauto) with hop | hop | hop | hop | hop <;>
    rw [hop] at hslot hdirection hamount
  · exact ⟨_, encode_of_rowNop_selects ((rowNop_selects_iff w).2
      ⟨hop, hslot (by decide), hdirection (by decide), hz, hamount (by decide)⟩)⟩
  · exact ⟨_, encode_of_rowStep_selects ((rowStep_selects_iff w).2 ⟨hop, hz, hamount (by decide)⟩)⟩
  · exact ⟨_, encode_of_rowSetDelay_selects ((rowSetDelay_selects_iff w).2
      ⟨hop, hslot (by decide), hdirection (by decide), hz⟩)⟩
  · exact ⟨_, encode_of_rowStopAll_selects ((rowStopAll_selects_iff w).2
      ⟨hop, hslot (by decide), hdirection (by decide), hz, hamount (by decide)⟩)⟩
  · exact ⟨_, encode_of_rowStopMotor_selects ((rowStopMotor_selects_iff w).2
      ⟨hop, hdirection (by decide), hz, hamount (by decide)⟩)⟩

/-- The legal words are those with no mark of R86. -/
theorem exists_decode_iff_not_illegalWord (w : CommandWord) :
    (∃ i, decode w = .ok i) ↔ ¬ illegalWord w :=
  ⟨fun ⟨i, hi⟩ => encode_of_decode hi ▸ not_illegalWord_encode i, exists_decode_of_not_illegalWord⟩

/-- A word with a mark of R86 is rejected by name. -/
theorem exists_decode_error_of_illegalWord {w : CommandWord} (h : illegalWord w) :
    ∃ e, decode w = .error e := by
  cases hd : decode w with
  | ok i => exact absurd h ((exists_decode_iff_not_illegalWord w).1 ⟨i, hd⟩)
  | error e => exact ⟨e, rfl⟩

/-- Settles O5: an illegal word takes the error branch of the step, a legal one answers by its command. -/
theorem illegalWordsRaise : Obligations.IllegalWordsRaise := by
  unfold Obligations.IllegalWordsRaise
  refine fun w => ⟨?_, fun hw s tick rest hinputs => ?_, fun hw s t tick rest hinputs h => ?_⟩
  · rw [← not_iff_not, ← exists_decode_iff_not_illegalWord, not_forall_not]
  · obtain ⟨e, he⟩ := exists_decode_error_of_illegalWord hw
    rw [step_of_command hinputs, runWord_of_error he, State.tickSample_of_error he]
    rfl
  · obtain ⟨i, hi⟩ := exists_decode_of_not_illegalWord hw
    rw [step_of_command hinputs, runWord_of_ok hi] at h
    obtain ⟨-, hillegal, -⟩ := exec_resp h
    exact ⟨hillegal, (exec_illegals h).trans (s.accept_illegals ..)⟩

/-! ### The number of legal words -/

/-- The commands other than SET_DELAY, every operand written out. -/
def commandsWithoutAmount : List Instr :=
  [.nop, .step .a .ccw, .step .a .cw, .step .b .ccw, .step .b .cw, .stopAll, .stopMotor .a, .stopMotor .b]

/-- The legal words as numbers: those of the other commands, and SET_DELAY's range (R88). -/
def legalWords : Finset Nat :=
  (commandsWithoutAmount.map fun i => (encode i).toNat).toFinset ∪ Finset.Ico 0x400000 0x410000

theorem card_legalWords : legalWords.card = 65544 := by
  rw [legalWords, Finset.card_union_of_disjoint, Nat.card_Ico]
  · decide
  · rw [Finset.disjoint_left]; simp only [Finset.mem_Ico]; decide

/-- A command is SET_DELAY or one of the others. -/
theorem setDelay_or_mem_commandsWithoutAmount (i : Instr) :
    (∃ a, i = .setDelay a) ∨ i ∈ commandsWithoutAmount := by
  cases i with
  | setDelay a => exact .inl ⟨a, rfl⟩
  | nop => exact .inr (by decide)
  | step m d => cases m <;> cases d <;> exact .inr (by decide)
  | stopAll => exact .inr (by decide)
  | stopMotor m => cases m <;> exact .inr (by decide)

theorem encode_setDelay_toNat (a : Amount) : (encode (.setDelay a)).toNat = 0x400000 + a.toNat := by
  change ((0b010#3 ++ 0#1 ++ 0#1 ++ 0#3) ++ a).toNat = _
  rw [BitVec.toNat_append, ← Nat.shiftLeft_add_eq_or_of_lt a.isLt]
  rfl

theorem mem_legalWords_iff (n : Nat) : n ∈ legalWords ↔ ∃ i, (encode i).toNat = n := by
  rw [legalWords, Finset.mem_union, List.mem_toFinset, List.mem_map, Finset.mem_Ico]
  constructor
  · rintro (⟨i, -, hi⟩ | ⟨hlo, hhi⟩)
    · exact ⟨i, hi⟩
    · refine ⟨.setDelay (BitVec.ofNat 16 (n - 0x400000)), ?_⟩
      rw [encode_setDelay_toNat, BitVec.toNat_ofNat]
      omega
  · rintro ⟨i, rfl⟩
    rcases setDelay_or_mem_commandsWithoutAmount i with ⟨a, rfl⟩ | hi
    · rw [encode_setDelay_toNat]
      have := a.isLt
      exact .inr (by omega)
    · exact .inl ⟨i, hi, rfl⟩

/-- A word is legal exactly when it is the encoding of a command. -/
theorem isOk_decode_iff (w : CommandWord) : (decode w).isOk = true ↔ ∃ i, encode i = w := by
  simp only [← decode_eq_ok_iff]
  cases decode w <;> simp [Except.isOk, Except.toBool]

/-- Settles O6: the filtered range is `legalWords`. -/
theorem legalWordCount : Obligations.LegalWordCount := by
  unfold Obligations.LegalWordCount
  rw [← card_legalWords]
  refine congrArg Finset.card (Finset.ext fun n => ?_)
  rw [Finset.mem_filter, Finset.mem_range, isOk_decode_iff, mem_legalWords_iff]
  constructor
  · rintro ⟨hn, i, hi⟩
    exact ⟨i, by rw [hi, BitVec.toNat_ofNat, Nat.mod_eq_of_lt hn]⟩
  · rintro ⟨i, rfl⟩
    exact ⟨(encode i).isLt, i, by simp⟩

end Sys2Proof.Machine

namespace Sys2Proof.Machine

/-! ### The operands of the assembler -/

theorem parseSlot_eq_some_a_iff (text : String) : parseSlot text = some .a ↔ text = "0" ∨ text = "A" := by
  unfold parseSlot; split <;> simp_all

theorem parseSlot_eq_some_b_iff (text : String) : parseSlot text = some .b ↔ text = "1" ∨ text = "B" := by
  unfold parseSlot; split <;> simp_all

theorem parseDirection_eq_some_cw_iff (text : String) : parseDirection text = some .cw ↔ text = "CW" := by
  unfold parseDirection; split <;> simp_all

theorem parseDirection_eq_some_ccw_iff (text : String) : parseDirection text = some .ccw ↔ text = "CCW" := by
  unfold parseDirection; split <;> simp_all

/-! ### Numerals -/

/-- Digits that stand for values below the base are read as the number those values make, the most significant
first (R89). -/
theorem parseDigits_map {α : Type} {base : Nat} {char : α → Char} {value : α → Nat}
    (hvalue : ∀ x, digitValue (char x) = some (value x)) (hlt : ∀ x, value x < base) (xs : List α) :
    parseDigits base 0 (xs.map char) = some (Nat.ofDigits base (xs.map value).reverse) := by
  refine (parseDigits_eq_some_iff _ _ _ _).2 ⟨xs.map value, ?_, ?_, ?_⟩
  · simp [hvalue]
  · simpa using fun x _ => hlt x
  · simp

/-- The characters of a numeral are digits of its base. -/
theorem mem_digits_of_parseDigits {base n : Nat} {cs : List Char} (h : parseDigits base 0 cs = some n) :
    ∀ c ∈ cs, ∃ v, digitValue c = some v ∧ v < base := by
  obtain ⟨ds, hds, hlt, -⟩ := (parseDigits_eq_some_iff _ _ _ _).1 h
  intro c hc
  have hmem : digitValue c ∈ ds.map some := hds ▸ List.mem_map_of_mem hc
  obtain ⟨v, hv, heq⟩ := List.mem_map.1 hmem
  exact ⟨v, heq.symm, hlt v hv⟩

/-- The decimal digits are the first ten of the capital row. -/
theorem decimal_eq_capital : ∀ d : Fin 10,
    "0123456789".toList.getD d.val '0' = capitalDigits.getD d.val '0' := by
  decide

theorem digitValue_decimal (d : Fin 10) : digitValue ("0123456789".toList.getD d.val '0') = some d.val := by
  rw [decimal_eq_capital]
  exact digitValue_capital (d.castLE (by decide))

theorem decimal_ne_x : ∀ d : Fin 10, "0123456789".toList.getD d.val '0' ≠ 'x' := by decide

theorem digitValue_hex (d : Fin 16 × Bool) :
    digitValue ((if d.2 = true then "0123456789ABCDEF" else "0123456789abcdef").toList.getD d.1.val '0') =
      some d.1.val := by
  obtain ⟨v, _ | _⟩ := d
  · exact digitValue_small v
  · exact digitValue_capital v

/-- A decimal numeral has the value of its digits (R89). -/
theorem parseAmount_decimal {ds : List (Fin 10)} (hne : ds ≠ []) :
    parseAmount (String.ofList (ds.map fun d => "0123456789".toList.getD d.val '0')) =
      some (Nat.ofDigits 10 (ds.map Fin.val).reverse) := by
  rw [parseAmount_of_no_prefix, String.toList_ofList, parseDigits_map digitValue_decimal Fin.isLt]
  · simpa using hne
  · rintro ⟨cs, hcs⟩
    have hx : 'x' ∈ ds.map fun d => "0123456789".toList.getD d.val '0' := by
      rw [← String.toList_ofList (l := ds.map _), hcs]; simp
    obtain ⟨d, -, hd⟩ := List.mem_map.1 hx
    exact decimal_ne_x d hd

/-- 0x and a hexadecimal numeral have the value of its digits (R89). -/
theorem parseAmount_hex {ds : List (Fin 16 × Bool)} (hne : ds ≠ []) :
    parseAmount (String.ofList ('0' :: 'x' :: ds.map fun d =>
        (if d.2 = true then "0123456789ABCDEF" else "0123456789abcdef").toList.getD d.1.val '0')) =
      some (Nat.ofDigits 16 (ds.map fun d => d.1.val).reverse) := by
  rw [parseAmount_of_prefix String.toList_ofList (by simpa using hne),
    parseDigits_map digitValue_hex fun d => d.1.isLt]

/-- Everything the reading of an amount accepts: a decimal numeral, or 0x and a hexadecimal one (R89). -/
theorem parseAmount_cases {text : String} {n : Nat} (h : parseAmount text = some n) :
    (text.toList ≠ [] ∧ ∀ c ∈ text.toList, c ∈ "0123456789".toList) ∨
    ∃ cs, text.toList = '0' :: 'x' :: cs ∧ cs ≠ [] ∧ ∀ c ∈ cs, c ∈ "0123456789ABCDEFabcdef".toList := by
  by_cases hprefix : ∃ cs, text.toList = '0' :: 'x' :: cs
  · obtain ⟨cs, hcs⟩ := hprefix
    have hne : cs ≠ [] := by
      rintro rfl
      simp [parseAmount, hcs] at h
    rw [parseAmount_of_prefix hcs hne] at h
    refine .inr ⟨cs, hcs, hne, fun c hc => ?_⟩
    obtain ⟨v, hv, -⟩ := mem_digits_of_parseDigits h c hc
    exact (mem_of_digitValue hv).1
  · have hne : text.toList ≠ [] := by
      intro hnil
      simp [parseAmount, hnil] at h
    rw [parseAmount_of_no_prefix hne hprefix] at h
    refine .inl ⟨hne, fun c hc => ?_⟩
    obtain ⟨v, hv, hlt⟩ := mem_digits_of_parseDigits h c hc
    exact (mem_of_digitValue hv).2 hlt

theorem parseStmt_setDelay_of_some {text : String} {n : Nat} (h : parseAmount text = some n) :
    parseStmt "SET_DELAY" [text] = .ok (.setDelay n) := by
  simp [parseStmt, h]

theorem parseStmt_setDelay_of_none {text : String} (h : parseAmount text = none) :
    parseStmt "SET_DELAY" [text] = .error .badOperands := by
  simp [parseStmt, h]

theorem expand_setDelay_of_le {n : Nat} (h : n ≤ 65535) :
    expand (.setDelay n) = .ok (.setDelay (BitVec.ofNat 16 n)) :=
  if_pos (decide_eq_true h)

theorem expand_setDelay_of_lt {n : Nat} (h : 65535 < n) :
    expand (.setDelay n) = .error .amountOutOfRange :=
  if_neg (by simpa [amountInRange] using h)

/-- Settles O58: the slots and directions, the two forms of numeral, the texts of neither form, and the range of
an amount. -/
theorem assemblerOperands : Obligations.AssemblerOperands := by
  unfold Obligations.AssemblerOperands
  refine ⟨fun text => ⟨parseSlot_eq_some_a_iff text, parseSlot_eq_some_b_iff text,
      parseDirection_eq_some_cw_iff text, parseDirection_eq_some_ccw_iff text⟩,
    fun _ => parseAmount_decimal, fun _ => parseAmount_hex, fun text hdecimal hhex => ?_,
    fun text n h => ⟨parseStmt_setDelay_of_some h, expand_setDelay_of_le, expand_setDelay_of_lt⟩⟩
  have hnone : parseAmount text = none := by
    refine Option.eq_none_iff_forall_ne_some.2 fun n h => ?_
    rcases parseAmount_cases h with hform | hform
    · exact hdecimal hform
    · exact hhex hform
  exact ⟨hnone, parseStmt_setDelay_of_none hnone⟩

/-! ### The line of a command -/

/-- A text with no blank at its ends is as it was after trimming. -/
theorem trimBlanks_eq_self {cs : List Char} (hhead : cs.head? ≠ some ' ') (hlast : cs.getLast? ≠ some ' ') :
    trimBlanks cs = cs := by
  have hdrop (l : List Char) (h : l.head? ≠ some ' ') : l.dropWhile (· == ' ') = l := by
    cases l with
    | nil => rfl
    | cons c l => simp_all
  rw [trimBlanks, hdrop cs hhead, hdrop cs.reverse (by rwa [List.head?_reverse]), List.reverse_reverse]

/-- A text without the character is one piece. -/
theorem cutAt_of_notMem {c : Char} {cs : List Char} (h : c ∉ cs) : cutAt c cs = [cs] := by
  induction cs with
  | nil => rfl
  | cons x xs ih =>
    rw [List.mem_cons, not_or] at h
    rw [cutAt, if_neg (Ne.symm h.1), ih h.2]

/-- A line of a mnemonic, a blank and one operand (log 12). -/
theorem splitLine_one_operand {mnemonic operand : List Char} (hm : mnemonic ≠ []) (ho : operand ≠ [])
    (hmblank : ' ' ∉ mnemonic) (hoblank : ' ' ∉ operand) (hcomma : ',' ∉ operand) :
    splitLine (String.ofList (mnemonic ++ ' ' :: operand)) =
      (String.ofList mnemonic, [String.ofList operand]) := by
  have hword : ∀ c ∈ mnemonic, (c != ' ') = true := fun c hc => bne_iff_ne.2 (ne_of_mem_of_not_mem hc hmblank)
  have hline : trimBlanks (mnemonic ++ ' ' :: operand) = mnemonic ++ ' ' :: operand := by
    refine trimBlanks_eq_self (fun h => hmblank ?_) (fun h => hoblank ?_)
    · rw [List.head?_append_of_ne_nil _ hm] at h
      exact List.mem_of_head? h
    · rw [List.getLast?_append_cons, List.getLast?_cons_of_ne_nil ho] at h
      exact List.mem_of_getLast? h
  have hoperand : trimBlanks operand = operand :=
    trimBlanks_eq_self (fun h => hoblank (List.mem_of_head? h)) (fun h => hoblank (List.mem_of_getLast? h))
  have hrest : trimBlanks (' ' :: operand) = operand := hoperand
  simp only [splitLine, String.toList_ofList, hline, List.takeWhile_append_of_pos hword,
    List.dropWhile_append_of_pos hword]
  simp [hrest, ho, cutAt_of_notMem hcomma, hoperand]

theorem digitValue_hexDigit (n : Nibble) : digitValue (hexDigit n) = some n.toNat :=
  digitValue_capital ⟨n.toNat, n.isLt⟩

/-- No digit is a blank or a comma. -/
theorem hexDigit_ne : ∀ n : Nibble, hexDigit n ≠ ' ' ∧ hexDigit n ≠ ',' := by decide

/-- The text of an amount is read as the amount. -/
theorem parseAmount_amountText (a : Amount) : parseAmount (String.ofList (amountText a)) = some a.toNat := by
  rw [parseAmount_of_prefix (cs := [a.extractLsb' 12 4, a.extractLsb' 8 4, a.extractLsb' 4 4,
      a.extractLsb' 0 4].map hexDigit) (by simp [amountText]) (by simp),
    parseDigits_map digitValue_hexDigit BitVec.isLt]
  have hlt := a.isLt
  simp only [List.map_cons, List.map_nil, List.reverse_cons, List.reverse_nil, List.nil_append, List.cons_append,
    Nat.ofDigits_cons, Nat.ofDigits_nil, BitVec.extractLsb'_toNat, Nat.shiftRight_eq_div_pow, Option.some.injEq]
  omega

/-- An amount of 16 bits is in an assembler's range (R89). -/
theorem expand_setDelay_toNat (a : Amount) : expand (.setDelay a.toNat) = .ok (.setDelay a) := by
  rw [expand_setDelay_of_le (Nat.le_of_lt_succ a.isLt), BitVec.ofNat_toNat, BitVec.setWidth_eq]

/-- The line of a SET_DELAY is its mnemonic and the text of its amount. -/
theorem splitLine_render_setDelay (a : Amount) :
    splitLine (render (.setDelay a)) = ("SET_DELAY", [String.ofList (amountText a)]) := by
  have hoperand : ' ' ∉ amountText a ∧ ',' ∉ amountText a := by
    simp [amountText, fun n => (hexDigit_ne n).1.symm, fun n => (hexDigit_ne n).2.symm]
  exact splitLine_one_operand (mnemonic := "SET_DELAY".toList) (by decide) (by simp [amountText]) (by decide)
    hoperand.1 hoperand.2

theorem assemble_of_expand {line : String} {stmt : AsmStmt} {i : Instr} (hparse : parseLine line = .ok stmt)
    (hexpand : expand stmt = .ok i) : assemble line = .ok (encode i) := by
  rw [assemble, hparse]
  simp only [hexpand]

/-- Settles O56: SET_DELAY by the lemmas on its line and its amount; the other commands have one line each. -/
theorem assembleRender : Obligations.AssembleRender := by
  unfold Obligations.AssembleRender
  intro i
  cases i with
  | nop => decide
  | step m d => cases m <;> cases d <;> decide
  | setDelay a =>
    refine assemble_of_expand ?_ (expand_setDelay_toNat a)
    rw [parseLine, splitLine_render_setDelay]
    exact parseStmt_setDelay_of_some (parseAmount_amountText a)
  | stopAll => decide
  | stopMotor m => cases m <;> decide

/-- Settles O57, line by line. -/
theorem pseudoInstructions : Obligations.PseudoInstructions := by
  unfold Obligations.PseudoInstructions
  decide

end Sys2Proof.Machine
end

section
/-! PROOFS. The statements of 40_control.md: NOP (R100) and SET_DELAY (R101 to R104), what each does and what it
leaves unchanged. -/

namespace Sys2Proof.Machine

/-! ### NOP -/

/-- The all-zero word is NOP (R83, R100). -/
theorem decode_zero : decode 0x000000 = .ok .nop := by
  rw [decode_eq_ok_iff]
  rfl

/-- NOP is the only command whose word has `op = 000` (R82). -/
theorem eq_nop_of_opField_encode {i : Instr} (h : opField (encode i) = 0b000) : i = .nop := by
  cases i with
  | nop => rfl
  | step m d => simp [encode] at h
  | setDelay a => simp [encode] at h
  | stopAll => simp [encode] at h
  | stopMotor m => simp [encode] at h

/-- Everything NOP does is to respond (R100). -/
theorem exec_nop (s : State) : exec .nop s = .next (s.respond respPlain) := rfl

/-- Settles O10: a legal word with `op = 000` is the encoding of NOP, which is the all-zero word. -/
theorem nopOnlyResponds : Obligations.NopOnlyResponds := by
  unfold Obligations.NopOnlyResponds
  refine ⟨decode_zero, fun w hop hne i hdecode => hne ?_, exec_nop⟩
  have hencode : encode i = w := encode_of_decode hdecode
  have hnop : i = .nop := eq_nop_of_opField_encode (hencode ▸ hop)
  exact (hnop ▸ hencode).symm

/-- Settles O59: the sample of a NOP is the one held before, so taking the input writes the input list alone. -/
theorem nopSamplesNoTick : Obligations.NopSamplesNoTick := by
  unfold Obligations.NopSamplesNoTick
  intro s tick rest hinputs
  calc step s
    _ = runWord 0x000000 (s.accept (s.tickSample 0x000000 tick) rest) := step_of_command hinputs
    _ = exec .nop (s.accept (s.tickSample 0x000000 tick) rest) := runWord_of_ok decode_zero _
    _ = .next ((s.accept s.now rest).respond respPlain) := by
      rw [State.tickSample_of_nop decode_zero, exec_nop]

/-! ### SET_DELAY -/

/-- The word of SET_DELAY holds the whole amount in its low 16 bits (R83, R85). -/
theorem encode_setDelay (a : Amount) : encode (.setDelay a) = 0x400000 ||| a.setWidth 24 := by
  refine BitVec.eq_of_toNat_eq ?_
  rw [encode_setDelay_toNat, BitVec.toNat_or, BitVec.toNat_setWidth_of_le (by decide)]
  exact Nat.two_pow_add_eq_or_of_lt a.isLt 0x40

/-- The acceptance test of R101 with its bound as a number. -/
theorem delayAccepted_iff (a : Amount) : delayAccepted a = true ↔ a.toNat ≤ 256 :=
  decide_eq_true_iff

/-- What SET_DELAY leaves in the delay register: an accepted amount, or the delay held before (R101 to R103). -/
def State.delayAfter (s : State) (a : Amount) : DelayReg :=
  if delayAccepted a then a.setWidth 9 else s.delay

/-- Everything SET_DELAY does is to write the delay and respond (R102, R103). -/
theorem exec_setDelay (a : Amount) (s : State) :
    exec (.setDelay a) s = .next ((s.setDelay (s.delayAfter a)).respond respPlain) :=
  execSetDelay_spec a s

/-- The same delay as R101 and R102 put it: an amount of at most 256 is stored as it is. -/
theorem State.delayAfter_eq (s : State) (a : Amount) :
    s.delayAfter a = if a.toNat ≤ 256 then BitVec.ofNat 9 a.toNat else s.delay := by
  simp only [delayAfter, delayAccepted_iff, BitVec.ofNat_toNat]

/-- Settles O11: the word by `encode_setDelay`, the effect by `exec_setDelay`. -/
theorem setDelayResult : Obligations.SetDelayResult := by
  unfold Obligations.SetDelayResult
  refine fun amount => ⟨(decode_eq_ok_iff _ _).2 (encode_setDelay amount), fun s => ?_⟩
  rw [exec_setDelay, State.delayAfter_eq]
  rfl

/-- Settles O34: NOP only responds, and SET_DELAY also writes the delay. -/
theorem controlFrame : Obligations.ControlFrame := by
  unfold Obligations.ControlFrame
  rintro s t i (rfl | ⟨a, rfl⟩) h
  · rw [exec_nop] at h
    cases h
    exact ⟨s.delay, respPlain, s.responses ++ [respPlain], rfl, fun _ => rfl⟩
  · rw [exec_setDelay] at h
    cases h
    exact ⟨s.delayAfter a, respPlain, s.responses ++ [respPlain], rfl, fun hnop => nomatch hnop⟩

/-- An accepted amount is the delay that SET_DELAY leaves, at its full value (R102). -/
theorem State.delayAfter_toNat (s : State) {a : Amount} (h : a.toNat ≤ 256) :
    (s.delayAfter a).toNat = a.toNat := by
  have haccepted : delayAccepted a = true := (delayAccepted_iff a).2 h
  rw [delayAfter, if_pos haccepted]
  exact (toNat_setWidth_of_delayAccepted haccepted).2

/-- SET_DELAY moves no deadline and samples nothing more, so a slot is due after it exactly when it was (R104). -/
theorem isDue_setDelay_respond (s : State) (v : DelayReg) (r : Response) (m : MotorSlot) :
    isDue ((s.setDelay v).respond r).now (((s.setDelay v).respond r).deadline m) =
      isDue s.now (s.deadline m) := by
  cases m <;> rfl

/-- Settles O12: a slot that was due still is by `isDue_setDelay_respond`, and its fire reads the delay that
SET_DELAY left (R104, R127). -/
theorem newDelayUsedByNextStep : Obligations.NewDelayUsedByNextStep := by
  unfold Obligations.NewDelayUsedByNextStep
  refine ⟨fun s amount => ⟨_, exec_setDelay amount s, rfl, rfl⟩, fun s amount m d hamount hdue => ?_⟩
  refine ⟨_, _, exec_setDelay amount s, execStep_of_due d ?_, rfl, ?_⟩
  · rw [isDue_setDelay_respond, isDue_iff]
    exact hdue
  · rw [State.fire_deadline_toNat, State.respond_delay, State.setDelay_delay, s.delayAfter_toNat hamount]
    rfl

end Sys2Proof.Machine
end

section
/-! PROOFS. The statements of 41_step.md: the phase counter (R120, R121), the pattern table (R122, R123), the mux
(R124, R125), the due test and the deadline (R126, R127, R131, R132), STEP itself (R128, R129, R133), and what
every byte sent is made of. -/

namespace Sys2Proof.Machine

/-! ### The phase counter, the table and the mux -/

/-- The two directions of the phase counter are inverse (R121). -/
theorem nextPhase_inverse : ∀ p : Phase,
    nextPhase (nextPhase p .cw) .ccw = p ∧ nextPhase (nextPhase p .ccw) .cw = p := by decide

/-- Four steps in one direction return the phase (R121). -/
theorem nextPhase_four (p : Phase) (d : Direction) :
    nextPhase (nextPhase (nextPhase (nextPhase p d) d) d) d = p := by
  cases d <;> revert p <;> decide

/-- Settles O15: the numbers are those of addition modulo 4, and the laws are the two lemmas above. -/
theorem phaseCounterLaws : Obligations.PhaseCounterLaws := by
  unfold Obligations.PhaseCounterLaws
  intro p
  obtain ⟨hcw, hccw⟩ := nextPhase_inverse p
  exact ⟨BitVec.toNat_add p 1, BitVec.toNat_add p 3, hcw, hccw, nextPhase_four p⟩

/-- Settles O16: the entries as written, and their properties over the four phases. -/
theorem patternTable : Obligations.PatternTable := by
  unfold Obligations.PatternTable
  exact ⟨rfl, rfl, rfl, rfl, by decide, by decide, by decide, by decide, by decide⟩

/-- A byte as the number its two nibbles make. -/
theorem toNat_append_nibbles (high low : Nibble) : (high ++ low).toNat = high.toNat * 16 + low.toNat := by
  rw [BitVec.toNat_append, ← Nat.shiftLeft_add_eq_or_of_lt low.isLt, Nat.shiftLeft_eq]

/-- The high nibble of a byte as a number (R64). -/
theorem toNat_highNibble (b : Byte) : (b.extractLsb' 4 4).toNat = b.toNat / 16 := by
  rw [BitVec.extractLsb'_toNat, Nat.shiftRight_eq_div_pow]
  exact Nat.mod_eq_of_lt (by omega)

/-- The low nibble of a byte as a number (R64). -/
theorem toNat_lowNibble (b : Byte) : (b.extractLsb' 0 4).toNat = b.toNat % 16 :=
  BitVec.extractLsb'_toNat 0 4 b

/-- Settles O17: the mux puts two nibbles side by side, and each is the number the lemmas above give. -/
theorem nibbleMuxPlacement : Obligations.NibbleMuxPlacement := by
  unfold Obligations.NibbleMuxPlacement
  intro nib last
  refine ⟨?_, ?_, ?_, ?_⟩
  · exact (toNat_append_nibbles 0b0000 nib).trans (by simp)
  · exact (toNat_append_nibbles nib 0b0000).trans (by simp)
  · exact (toNat_append_nibbles _ nib).trans (by rw [toNat_highNibble])
  · exact (toNat_append_nibbles nib _).trans (by rw [toNat_lowNibble])

/-- The nibble of the slot not served: 0000 in LITERAL mode (R124), the last byte's in RECOMBINE mode (R125). -/
theorem slotNibble_nibbleMux_other (mode : ComposeMode) (m : MotorSlot) (nib : Nibble) (last : Byte) :
    slotNibble (otherSlot m) (nibbleMux mode m nib last) =
      match mode with
      | .literal => 0
      | .recombine => slotNibble (otherSlot m) last := by
  cases mode with
  | literal => exact slotNibble_muxLiteral_other m nib
  | recombine => exact slotNibble_muxRecombine_other m nib last

/-- With nothing sent before, the other nibble is 0000 in both modes (R44, R124, R125). -/
theorem slotNibble_nibbleMux_other_of_zero (mode : ComposeMode) (m : MotorSlot) (nib : Nibble) :
    slotNibble (otherSlot m) (nibbleMux mode m nib 0x00) = 0 := by
  rw [slotNibble_nibbleMux_other]
  cases mode with
  | literal => rfl
  | recombine => cases m <;> rfl

/-! ### The due test -/

/-- The due test by the time since the deadline: less than half the tick range (R126). -/
theorem isDue_iff_lt_half {w : Nat} (hw : 0 < w) (now deadline : BitVec w) :
    isDue now deadline = true ↔ (now.toNat + (2 ^ w - deadline.toNat)) % 2 ^ w < 2 ^ (w - 1) := by
  have hhalf : 2 ^ (w - 1) * 2 = 2 ^ w := Nat.two_pow_pred_mul_two hw
  rw [isDue_iff, BitVec.msb_eq_false_iff_two_mul_lt, ← BitVec.toNat_sub']
  omega

/-- A slot is not due for the other half of the tick range (R131 item 4). -/
theorem isDue_eq_false_iff_half_le {w : Nat} (hw : 0 < w) (now deadline : BitVec w) :
    isDue now deadline = false ↔ 2 ^ (w - 1) ≤ (now.toNat + (2 ^ w - deadline.toNat)) % 2 ^ w := by
  rw [← not_lt, ← isDue_iff_lt_half hw, Bool.not_eq_true]

/-- Settles O18: the sign bit is the sign of the two's-complement reading, and the number by
`isDue_iff_lt_half`. -/
theorem dueTestIsSigned : Obligations.DueTestIsSigned := by
  unfold Obligations.DueTestIsSigned
  refine fun w now deadline hw => ⟨?_, isDue_iff_lt_half hw now deadline⟩
  rw [isDue_iff, BitVec.msb_eq_toInt, decide_eq_false_iff_not, not_lt]

/-- The due test against the deadline a fire at `now` sets: the slot is due from `delay` ticks after the fire on,
for half the tick range (R132). -/
theorem isDue_nextDeadline_iff {w : Nat} (hw : 10 ≤ w) {delay : DelayReg} (hdelay : delay.toNat ≤ 256)
    (now later : BitVec w) {since : Nat} (hsince : since = (later.toNat + (2 ^ w - now.toNat)) % 2 ^ w) :
    isDue later (nextDeadline now delay) = true ↔
      delay.toNat ≤ since ∧ since < delay.toNat + 2 ^ (w - 1) := by
  have hpow : 2 ^ (w - 1) * 2 = 2 ^ w := Nat.two_pow_pred_mul_two (by omega)
  have hhalf : 2 ^ 9 ≤ 2 ^ (w - 1) := Nat.pow_le_pow_right (by decide) (by omega)
  have hshift : isDue later (nextDeadline now delay) = isDue (later - now) (delay.setWidth w) := by
    rw [isDue, isDue, nextDeadline, sub_add_eq_sub_sub]
  have hwide : (delay.setWidth w).toNat = delay.toNat := BitVec.toNat_setWidth_of_le (by omega)
  have hlt : since < 2 ^ w := hsince ▸ Nat.mod_lt _ (Nat.two_pow_pos w)
  rw [hshift, isDue_iff_lt_half (by omega), hwide, BitVec.toNat_sub', ← hsince]
  by_cases hearly : since < delay.toNat
  · rw [Nat.mod_eq_of_lt (by omega)]
    omega
  · rw [show since + (2 ^ w - delay.toNat) = since - delay.toNat + 2 ^ w by omega, Nat.add_mod_right,
      Nat.mod_eq_of_lt (by omega)]
    omega

/-- Slot `m` at a tick `later` than the sample held: only the tick of the due test changes (R41). -/
theorem isDue_withNow (s : State) (m : MotorSlot) (later : BitVec s.cfg.tickW) :
    isDue ({ s with now := later } : State).now (({ s with now := later } : State).deadline m) =
      isDue later (s.deadline m) :=
  isDue_accept s m later s.inputs

/-! ### STEP -/

/-- A STEP whose slot is due fires (R128), the due test being the sign bit of R126. -/
theorem exec_step_of_msb_false {s : State} {m : MotorSlot} (d : Direction)
    (h : (s.now - s.deadline m).msb = false) : exec (.step m d) s = .next (s.fire m d) :=
  execStep_of_due d ((isDue_iff _ _).2 h)

/-- The phase counter's clockwise step as R128 puts it: minus 1. -/
theorem nextPhase_eq_ite (p : Phase) (d : Direction) : nextPhase p d = if d = .ccw then p + 1 else p - 1 := by
  cases d with
  | ccw => rfl
  | cw => revert p; decide

/-- Settles O13: the due STEP is `State.fire_spec` with the phase counter and the deadline written out, and the
other one is a bare response. -/
theorem stepResult : Obligations.StepResult := by
  unfold Obligations.StepResult
  simp only [decode_eq_ok_iff]
  refine ⟨rfl, rfl, rfl, rfl, fun s m d b hb => ⟨fun hdue => ?_, fun hdue => ?_⟩⟩
  · obtain rfl : b = s.stepByte m := hb
    rw [exec_step_of_msb_false d hdue, State.fire_spec, nextPhase_eq_ite, nextPhase_eq_ite]
    rfl
  · exact execStep_of_not_due d (by rw [isDue, hdue]; rfl)

/-- Settles O19: the STEP fires, and `State.fire_deadline_toNat` is R127's sum. -/
theorem deadlineAfterFire : Obligations.DeadlineAfterFire := by
  unfold Obligations.DeadlineAfterFire
  intro s m d hdue
  exact ⟨_, exec_step_of_msb_false d hdue, s.fire_deadline_toNat m d⟩

/-- Settles O20: the fire leaves the deadline of `isDue_nextDeadline_iff`, which decides each later STEP. -/
theorem timingLaw : Obligations.TimingLaw := by
  unfold Obligations.TimingLaw
  intro s m d hwidth hdelay hdue
  refine ⟨_, exec_step_of_msb_false d hdue, fun later e since hsince => ?_⟩
  have hlaw : isDue later ((s.fire m d).deadline m) = true ↔
      s.delay.toNat ≤ since ∧ since < s.delay.toNat + 2 ^ (s.cfg.tickW - 1) := by
    rw [State.fire_deadline]
    exact isDue_nextDeadline_iff hwidth hdelay s.now later hsince
  refine ⟨fun hearly => ?_, fun hfrom huntil => ?_⟩
  · have hnot : isDue later ((s.fire m d).deadline m) = false := by
      rw [← Bool.not_eq_true, hlaw]
      omega
    exact execStep_of_not_due e ((isDue_withNow _ m later).trans hnot)
  · exact ⟨_, execStep_of_due e ((isDue_withNow _ m later).trans (hlaw.2 ⟨hfrom, huntil⟩)), rfl⟩

/-- Settles O21: the slot is not due by `isDue_eq_false_iff_half_le`. -/
theorem halfRangeStall : Obligations.HalfRangeStall := by
  unfold Obligations.HalfRangeStall
  intro s m d hw hhalf
  exact execStep_of_not_due d ((isDue_eq_false_iff_half_le hw _ _).2 hhalf)

/-- With delay 0 a fire sets the deadline to its own tick (R131 item 2). -/
theorem State.fire_deadline_of_delay_zero {s : State} (m : MotorSlot) (d : Direction) (h : s.delay = 0) :
    (s.fire m d).deadline m = s.now := by
  rw [State.fire_deadline, h]
  simp [nextDeadline]

/-- A slot is due at its deadline itself (R126). -/
theorem isDue_self {w : Nat} (now : BitVec w) : isDue now now = true := by
  simp [isDue]

/-- Settles O22: the first fire leaves the delay at 0 and the deadline at its tick, which the second finds due. -/
theorem zeroDelayFiresAgain : Obligations.ZeroDelayFiresAgain := by
  unfold Obligations.ZeroDelayFiresAgain
  intro s m d e hdelay hdue
  have hfirst : (s.fire m d).deadline m = s.now := State.fire_deadline_of_delay_zero m d hdelay
  have hagain : isDue (s.fire m d).now ((s.fire m d).deadline m) = true := by
    rw [hfirst]
    exact isDue_self s.now
  exact ⟨_, _, exec_step_of_msb_false d hdue, congrArg _ hfirst, execStep_of_due e hagain, rfl,
    congrArg _ (State.fire_deadline_of_delay_zero m e hdelay)⟩

/-- Settles O23: both slots hold the reset's tick as deadline, phase 0, and last byte 0x00 (R44). -/
theorem firstStepAfterReset : Obligations.FirstStepAfterReset := by
  unfold Obligations.FirstStepAfterReset
  intro c tick now m d hw helapsed
  have hdeadline : (State.afterReset c tick).deadline m = tick := by cases m <;> rfl
  have hdue : isDue now ((State.afterReset c tick).deadline m) = true := by
    rw [hdeadline]
    exact (isDue_iff_lt_half hw now tick).2 helapsed
  refine ⟨_, execStep_of_due d ((isDue_withNow (State.afterReset c tick) m now).trans hdue), rfl, ?_, ?_⟩
  · rw [State.fire_lastByte, State.stepByte, slotNibble_nibbleMux]
    cases m <;> rfl
  · exact slotNibble_nibbleMux_other_of_zero c.composeMode m _

/-- Settles O32: the mux in RECOMBINE mode keeps the other nibble of the byte the STEP sends. -/
theorem recombineKeepsOtherNibble : Obligations.RecombineKeepsOtherNibble := by
  unfold Obligations.RecombineKeepsOtherNibble
  intro s m d hmode hdue
  refine ⟨_, exec_step_of_msb_false d hdue, ?_, ?_⟩
  · rw [State.fire_lastByte, State.stepByte, slotNibble_nibbleMux_other, hmode]
  · rw [State.fire_lastByte, State.stepByte, slotNibble_nibbleMux]

/-! ### A run of STEPs that fire -/

/-- A run that completes has a first step, after which the rest of it runs. -/
theorem exists_step_of_core_run {n : Nat} {s t : State} (h : Sys2Proof.core.run (n + 1) s = .next t) :
    ∃ u : State, step s = .next u ∧ Sys2Proof.core.run n u = .next t := by
  have key : ∀ (M : Host.Core) (a b : M.State), M.run (n + 1) a = .next b →
      ∃ c, M.step a = .next c ∧ M.run n c = .next b := by
    intro M a b hab
    rw [Host.Core.run] at hab
    cases hstep : M.step a with
    | next c => exact ⟨c, rfl, by rwa [hstep] at hab⟩
    | fault r => rw [hstep] at hab; cases hab
    | refused r => rw [hstep] at hab; cases hab
  exact key Sys2Proof.core s t h

/-- A run only adds responses at the end of the log (R68). -/
theorem core_run_responses_append {n : Nat} {s t : State} (h : Sys2Proof.core.run n s = .next t) :
    ∃ more, t.responses = s.responses ++ more := by
  induction n generalizing s with
  | zero => cases h; exact ⟨[], by simp⟩
  | succ n ih =>
    obtain ⟨u, hstep, hrest⟩ := exists_step_of_core_run h
    obtain ⟨-, ⟨first, hfirst, -⟩, -⟩ := logsOnlyGrow s u hstep
    obtain ⟨more, hmore⟩ := ih hrest
    exact ⟨first ++ more, by rw [hmore, hfirst, List.append_assoc]⟩

/-- The next `n` inputs are all the word `c`, each with a tick of its own. -/
def NextInputsAre {w : Nat} (c : CommandWord) (n : Nat) (l : List (HostInput w)) : Prop :=
  n ≤ l.length ∧ ∀ x ∈ l.take n, ∃ tick, x = .command c tick

/-- The first of them, and the others. -/
theorem NextInputsAre.exists_cons {w : Nat} {c : CommandWord} {n : Nat} {l : List (HostInput w)}
    (h : NextInputsAre c (n + 1) l) : ∃ tick rest, l = .command c tick :: rest ∧ NextInputsAre c n rest := by
  obtain ⟨hlength, hall⟩ := h
  cases l with
  | nil => simp at hlength
  | cons x rest =>
    rw [List.take_succ_cons, List.forall_mem_cons] at hall
    obtain ⟨⟨tick, rfl⟩, hrest⟩ := hall
    exact ⟨tick, rest, rfl, Nat.le_of_succ_le_succ hlength, hrest⟩

/-- The step that takes a STEP command runs it with the command's own tick (R41, R128). -/
theorem step_of_stepCommand {s : State} {m : MotorSlot} {d : Direction} {tick : BitVec s.cfg.tickW}
    {rest : List (HostInput s.cfg.tickW)} (h : s.inputs = .command (encode (.step m d)) tick :: rest) :
    step s = exec (.step m d) (s.accept tick rest) := by
  have hdecode := decode_encode (.step m d)
  rw [step_of_command h, runWord_of_ok hdecode, State.tickSample_of_ok hdecode (by simp)]

/-- The first STEP of a run in which every response is `fired` has fired: a STEP that does not fire answers
0/0, and the answer stays in the log. -/
theorem core_run_fire_of_fired {n : Nat} {s t : State} {m : MotorSlot} {d : Direction}
    {tick : BitVec s.cfg.tickW} {rest : List (HostInput s.cfg.tickW)}
    (hinputs : s.inputs = .command (encode (.step m d)) tick :: rest)
    (hrun : Sys2Proof.core.run (n + 1) s = .next t)
    (hfired : t.responses = s.responses ++ List.replicate (n + 1) respFired) :
    Sys2Proof.core.run n ((s.accept tick rest).fire m d) = .next t := by
  obtain ⟨u, hstep, hrest⟩ := exists_step_of_core_run hrun
  rw [step_of_stepCommand hinputs] at hstep
  rcases exec_step_cases hstep with ⟨-, rfl⟩ | ⟨-, rfl⟩
  · exact hrest
  · obtain ⟨more, hmore⟩ := core_run_responses_append hrest
    rw [hfired, State.respond_responses, State.accept_responses, List.append_assoc, List.replicate_succ] at hmore
    have hsame : respFired = respPlain := List.head_eq_of_cons_eq (List.append_cancel_left hmore)
    exact absurd hsame (by decide)

/-- Advancing first or last makes the same phase (R133). -/
theorem advanced_nextPhase (p : Phase) (d : Direction) (k : Nat) :
    advanced (nextPhase p d) d k = advanced p d (k + 1) := by
  induction k with
  | zero => rfl
  | succ k ih => exact congrArg (nextPhase · d) ih

/-- The patterns of `n + 1` phases: the first one's, and those of the phases after it. -/
theorem map_drivePattern_advanced_succ (p : Phase) (d : Direction) (n : Nat) :
    (List.range (n + 1)).map (fun k => drivePattern (advanced p d k)) =
      drivePattern p :: (List.range n).map (fun k => drivePattern (advanced (nextPhase p d) d k)) := by
  simp only [List.range_succ_eq_map, List.map_cons, List.map_map, advanced_nextPhase]
  rfl

/-- A run of STEPs that all fire, by induction on their number: the first sends the pattern of the phase held,
and the others are a run from the phase it leaves (R133). -/
theorem core_run_fired_steps {n : Nat} {s t : State} {m : MotorSlot} {d : Direction}
    (hinputs : NextInputsAre (encode (.step m d)) n s.inputs)
    (hrun : Sys2Proof.core.run n s = .next t)
    (hfired : t.responses = s.responses ++ List.replicate n respFired) :
    ∃ sent : List Byte,
      t.trace = s.trace ++ sent ∧
      sent.map (slotNibble m) =
        (List.range n).map (fun k => drivePattern (advanced (s.phase m) d k)) ∧
      t.phase m = advanced (s.phase m) d n := by
  induction n generalizing s with
  | zero => cases hrun; exact ⟨[], by simp, rfl, rfl⟩
  | succ n ih =>
    obtain ⟨tick, rest, hhead, hrest⟩ := hinputs.exists_cons
    have hphase : ((s.accept tick rest).fire m d).phase m = nextPhase (s.phase m) d := by
      rw [State.fire_phase, State.accept_phase]
    have hbyte : slotNibble m ((s.accept tick rest).stepByte m) = drivePattern (s.phase m) := by
      rw [State.stepByte, slotNibble_nibbleMux, State.accept_phase]
    obtain ⟨sent, htrace, hsent, hlast⟩ := ih (s := (s.accept tick rest).fire m d) hrest
      (core_run_fire_of_fired hhead hrun hfired) (by simp [hfired, List.replicate_succ])
    refine ⟨(s.accept tick rest).stepByte m :: sent, ?_, ?_, ?_⟩
    · simp [htrace]
    · rw [List.map_cons, hbyte, hsent, hphase, map_drivePattern_advanced_succ]
    · rw [hlast, hphase, advanced_nextPhase]

/-- Settles O26: the inputs and the responses are those `core_run_fired_steps` asks for. -/
theorem patternSequence : Obligations.PatternSequence := by
  unfold Obligations.PatternSequence
  intro n s t m d hlength hinputs hrun hfired
  exact core_run_fired_steps ⟨hlength, hinputs⟩ hrun hfired

/-! ### The bytes a step may send -/

/-- The bytes a command may send in state `s`: 0x00 (STOP_ALL, R160), or the mux of a nibble of R123 for one slot
(R128, R161). -/
def State.MaySend (s : State) (b : Byte) : Prop :=
  b = 0x00 ∨ ∃ m nib, legalNibble nib = true ∧ b = nibbleMux s.cfg.composeMode m nib s.lastByte

/-- What a word does to the trace and to `last_byte`: it keeps both, or it adds to the trace the byte it
remembers, which is one it may send. -/
theorem runWord_trace_cases {w : CommandWord} {s t : State} (h : runWord w s = .next t) :
    (t.trace = s.trace ∧ t.lastByte = s.lastByte) ∨
      (t.trace = s.trace ++ [t.lastByte] ∧ s.MaySend t.lastByte) := by
  rcases runWord_cases h with ⟨i, -, hexec⟩ | ⟨-, rfl⟩
  · rcases exec_cases hexec with ⟨-, rfl⟩ | ⟨m, d, -, -, rfl⟩ | ⟨m, d, -, -, rfl⟩ | ⟨a, -, rfl⟩ | ⟨-, rfl⟩ |
      ⟨m, -, rfl⟩
    case inr.inl =>
      exact .inr ⟨s.fire_trace m d, .inr ⟨m, _, legalNibble_drivePattern (s.phase m), rfl⟩⟩
    case inr.inr.inr.inr.inl => exact .inr ⟨s.transmit_trace 0x00, .inl rfl⟩
    case inr.inr.inr.inr.inr => exact .inr ⟨s.transmit_trace _, .inr ⟨m, 0b0000, by decide, rfl⟩⟩
    all_goals exact .inl ⟨rfl, rfl⟩
  · exact .inl ⟨rfl, rfl⟩

/-- Every byte of the trace after a word was there before, or is one the word may send. -/
theorem mem_trace_of_runWord {w : CommandWord} {s t : State} (h : runWord w s = .next t) {b : Byte}
    (hb : b ∈ t.trace) : b ∈ s.trace ∨ s.MaySend b := by
  rcases runWord_trace_cases h with ⟨htrace, -⟩ | ⟨htrace, hmay⟩
  · exact .inl (htrace ▸ hb)
  · rw [htrace, List.mem_append, List.mem_singleton] at hb
    rcases hb with hold | rfl
    · exact .inl hold
    · exact .inr hmay

/-- A command that a reset cuts has sent no byte but those of the whole command (R233). -/
theorem mem_txBytes_cutOutputs {point : CutPoint} {start full : List OutEvent} {b : Byte}
    (hb : b ∈ txBytes (cutOutputs point start full)) : b ∈ txBytes start ∨ b ∈ txBytes full := by
  cases point with
  | before => exact .inl hb
  | during =>
    rw [cutOutputs] at hb
    split at hb
    · exact .inl hb
    · exact .inl (by simpa using hb)
  | after => exact .inr hb

/-- A reset sends nothing (R230). -/
theorem mem_trace_of_resetBlock {s : State} (tick : BitVec s.cfg.tickW) {b : Byte}
    (hb : b ∈ (s.resetBlock tick).trace) : b ∈ s.trace := by
  rwa [State.resetBlock_trace] at hb

/-- Every byte of the trace after a step was there before, or is one a command may send. -/
theorem mem_trace_of_step {s t : State} (h : step s = .next t) {b : Byte} (hb : b ∈ t.trace) :
    b ∈ s.trace ∨ s.MaySend b := by
  rcases step_cases h with ⟨-, rfl⟩ | ⟨w, tick, rest, -, hrun⟩ | ⟨tick, rest, -, rfl⟩ |
    ⟨w, tick, point, resetTick, rest, u, -, hrun, rfl⟩
  · exact .inl hb
  · exact mem_trace_of_runWord hrun hb
  · exact .inl (mem_trace_of_resetBlock tick hb)
  · have hcut := mem_trace_of_resetBlock _ hb
    rcases mem_txBytes_cutOutputs hcut with hstart | hfull
    · exact .inl hstart
    · exact mem_trace_of_runWord hrun hfull

/-- The byte held after a step is the one held before, or one a command may send: a reset holds 0x00 (R44). -/
theorem lastByte_of_step {s t : State} (h : step s = .next t) :
    t.lastByte = s.lastByte ∨ s.MaySend t.lastByte := by
  rcases step_cases h with ⟨-, rfl⟩ | ⟨w, tick, rest, -, hrun⟩ | ⟨tick, rest, -, rfl⟩ |
    ⟨w, tick, point, resetTick, rest, u, -, -, rfl⟩
  · exact .inl rfl
  · rcases runWord_trace_cases hrun with ⟨-, hkept⟩ | ⟨-, hmay⟩
    · exact .inl hkept
    · exact .inr hmay
  · exact .inr (.inl rfl)
  · exact .inr (.inl rfl)

/-- Where the byte held is legal, so is every byte a command may send (R123 to R125). -/
theorem State.MaySend.legalByte {s : State} {b : Byte} (h : s.MaySend b)
    (hlast : legalByte s.lastByte = true) : legalByte b = true := by
  rcases h with rfl | ⟨m, nib, hnib, rfl⟩
  · decide
  · exact legalByte_nibbleMux _ m hnib hlast

/-- Settles O50: what a step adds to the trace, or leaves in `last_byte`, a command may send. -/
theorem stepKeepsLegalBytes : Obligations.StepKeepsLegalBytes := by
  unfold Obligations.StepKeepsLegalBytes
  rintro s t ⟨hlast, htrace⟩ h
  constructor
  · rcases lastByte_of_step h with hkept | hmay
    · rwa [hkept]
    · exact hmay.legalByte hlast
  · intro b hb
    rcases mem_trace_of_step h hb with hold | hmay
    · exact htrace b hold
    · exact hmay.legalByte hlast

/-- In LITERAL mode a byte that a command may send has the nibble 0000 (R124). -/
theorem State.MaySend.exists_slotNibble_eq_zero {s : State} {b : Byte} (h : s.MaySend b)
    (hmode : s.cfg.composeMode = .literal) : slotNibble .a b = 0 ∨ slotNibble .b b = 0 := by
  rcases h with rfl | ⟨m, nib, -, rfl⟩
  · exact .inl rfl
  · have hother := slotNibble_nibbleMux_other .literal m nib s.lastByte
    rw [hmode]
    cases m with
    | a => exact .inr hother
    | b => exact .inl hother

/-- Settles O52: the bytes of the trace are those there before and those a command may send. -/
theorem literalOneMotorPerByte : Obligations.LiteralOneMotorPerByte := by
  unfold Obligations.LiteralOneMotorPerByte
  intro s t hmode htrace h b hb
  rcases mem_trace_of_step h hb with hold | hmay
  · exact htrace b hold
  · exact hmay.exists_slotNibble_eq_zero hmode

end Sys2Proof.Machine
end

section
/-! PROOFS. The statements of 42_stop.md: what STOP_ALL (R160) and STOP_MOTOR (R161, R162) do and leave unchanged,
that they leave the timing state alone (R163), and that a slot stopped in RECOMBINE mode stays de-energized. -/

namespace Sys2Proof.Machine

/-! ### The effect of a stop command -/

/-- `s` after a stop command that sends the byte `b` (R160 to R162). -/
def State.stop (s : State) (b : Byte) : State := (s.transmit b).respond respPlain

/-- Everything a stop command does, as one record. -/
theorem State.stop_spec (s : State) (b : Byte) :
    s.stop b =
      { s with
        lastByte := b
        latch := 1
        resp := { fired := false, illegal := false }
        outputs := s.outputs ++ [.latch 0, .tx b, .latch 1]
        responses := s.responses ++ [{ fired := false, illegal := false }] } := by
  obtain ⟨out, rfl, htransmit⟩ := s.transmit_spec b
  rw [stop, htransmit]
  rfl

section

variable (s : State) (b : Byte) (m : MotorSlot)

@[simp] theorem State.stop_outputs : (s.stop b).outputs = s.outputs ++ [.latch 0, .tx b, .latch 1] :=
  s.transmit_outputs b

@[simp] theorem State.stop_phase : (s.stop b).phase m = s.phase m := by
  rw [stop, respond_phase, transmit_phase]

/-- A stop command moves no deadline and no sample, so a slot is due after it exactly when it was (R163). -/
theorem isDue_stop : isDue (s.stop b).now ((s.stop b).deadline m) = isDue s.now (s.deadline m) := by
  cases m <;> rfl

end

/-- STOP_ALL sends 0x00 (R160). -/
theorem exec_stopAll (s : State) : exec .stopAll s = .next (s.stop 0x00) := rfl

/-- STOP_MOTOR sends the mux of the nibble 0000 (R161, R162). -/
theorem exec_stopMotor (m : MotorSlot) (s : State) :
    exec (.stopMotor m) s = .next (s.stop (nibbleMux s.cfg.composeMode m 0b0000 s.lastByte)) := rfl

/-- A stop command sends one byte, and the same one whatever the tick sample (R163). -/
theorem exists_byte_of_stop {i : Instr} (hi : i = .stopAll ∨ ∃ m, i = .stopMotor m) (s : State) :
    ∃ b, ∀ tick : BitVec s.cfg.tickW,
      exec i { s with now := tick } = .next (({ s with now := tick } : State).stop b) := by
  rcases hi with rfl | ⟨m, rfl⟩
  · exact ⟨0x00, fun tick => exec_stopAll { s with now := tick }⟩
  · exact ⟨nibbleMux s.cfg.composeMode m 0b0000 s.lastByte, fun tick => exec_stopMotor m { s with now := tick }⟩

/-- The two words of STOP_MOTOR (R161). -/
theorem decode_stopMotor_words :
    decode 0x800000 = .ok (.stopMotor .a) ∧ decode 0x900000 = .ok (.stopMotor .b) :=
  ⟨(decode_eq_ok_iff _ _).2 rfl, (decode_eq_ok_iff _ _).2 rfl⟩

/-! ### The byte of STOP_MOTOR -/

/-- In LITERAL mode the nibble 0000 makes the byte 0x00 for either slot (R124, R161). -/
theorem nibbleMux_literal_zero (m : MotorSlot) (last : Byte) : nibbleMux .literal m 0b0000 last = 0x00 := by
  cases m <;> rfl

/-- A byte is its two nibbles (R64). -/
theorem append_nibbles (b : Byte) : b.extractLsb' 4 4 ++ b.extractLsb' 0 4 = b := by
  refine BitVec.eq_of_toNat_eq ?_
  rw [toNat_append_nibbles, toNat_highNibble, toNat_lowNibble, Nat.div_add_mod']

/-- A mask of ones keeps a nibble, and a mask of zeros clears it. -/
theorem and_nibble_masks : (∀ x : Nibble, x &&& 0b1111 = x) ∧ ∀ x : Nibble, x &&& 0b0000 = 0b0000 :=
  ⟨fun _ => BitVec.and_allOnes, fun _ => BitVec.and_zero⟩

/-- In RECOMBINE mode the nibble 0000 masks the slot's own half out of the last byte (R125, R162). -/
theorem nibbleMux_recombine_zero (m : MotorSlot) (last : Byte) :
    nibbleMux .recombine m 0b0000 last = if m = .a then last &&& 0xF0 else last &&& 0x0F := by
  obtain ⟨hones, hzeros⟩ := and_nibble_masks
  have hmask (high low : Nibble) : last &&& (high ++ low) =
      (last.extractLsb' 4 4 &&& high) ++ (last.extractLsb' 0 4 &&& low) := by
    rw [← BitVec.and_append, append_nibbles]
  cases m with
  | a => exact ((hmask 0b1111 0b0000).trans (by rw [hones, hzeros]; rfl)).symm
  | b => exact ((hmask 0b0000 0b1111).trans (by rw [hones, hzeros]; rfl)).symm

/-! ### The results and the frame -/

/-- Settles O28: the word is the encoding of STOP_ALL, and its effect is `State.stop_spec` with the byte 0x00. -/
theorem stopAllResult : Obligations.StopAllResult := by
  unfold Obligations.StopAllResult
  refine ⟨(decode_eq_ok_iff _ _).2 rfl, fun s => ?_⟩
  rw [exec_stopAll, State.stop_spec]

/-- Settles O29: the byte is 0x00 for either slot, by `nibbleMux_literal_zero`. -/
theorem stopMotorLiteral : Obligations.StopMotorLiteral := by
  unfold Obligations.StopMotorLiteral
  obtain ⟨ha, hb⟩ := decode_stopMotor_words
  refine ⟨ha, hb, fun s m hmode => ?_⟩
  rw [exec_stopMotor, hmode, nibbleMux_literal_zero, State.stop_spec]

/-- Settles O35: either stop command is `State.stop_spec` for the byte it sends. -/
theorem stopFrame : Obligations.StopFrame := by
  unfold Obligations.StopFrame
  intro s t i hi h
  obtain ⟨b, hexec⟩ := exists_byte_of_stop hi s
  cases h.symm.trans (hexec s.now)
  exact ⟨b, _, _, _, _, s.stop_spec b⟩

/-! ### The timing state -/

/-- A STEP completes, fires exactly when its slot is due, and then sends the pattern of the phase held (R128,
R129). -/
theorem exists_exec_step (s : State) (m : MotorSlot) (d : Direction) :
    ∃ t : State, exec (.step m d) s = .next t ∧
      (t.resp.fired = true ↔ isDue s.now (s.deadline m) = true) ∧
      (t.resp.fired = true → slotNibble m t.lastByte = drivePattern (s.phase m)) := by
  cases hdue : isDue s.now (s.deadline m) with
  | true =>
    refine ⟨_, execStep_of_due d hdue, iff_of_true rfl rfl, fun _ => ?_⟩
    rw [State.fire_lastByte, State.stepByte, slotNibble_nibbleMux]
  | false => exact ⟨_, execStep_of_not_due d hdue, Iff.rfl, fun hfired => nomatch hfired⟩

/-- Settles O31: the byte sent does not depend on the tick, and a STEP after the stop finds the due test and the
phase as they were. -/
theorem stopsKeepTiming : Obligations.StopsKeepTiming := by
  unfold Obligations.StopsKeepTiming
  intro s i other hi
  obtain ⟨b, hexec⟩ := exists_byte_of_stop hi s
  refine ⟨s.stop b, _, hexec s.now, hexec other, ?_, rfl, rfl, rfl, rfl, rfl, rfl, fun m d => ?_⟩
  · rw [State.stop_outputs, State.stop_outputs]
  · have hstep := exists_exec_step (s.stop b) m d
    rwa [isDue_stop, State.stop_phase] at hstep

/-! ### A stopped slot stays de-energized -/

/-- A slot is not due exactly when the difference of R126 is negative. -/
theorem isDue_eq_false_iff {w : Nat} (now deadline : BitVec w) :
    isDue now deadline = false ↔ (now - deadline).msb = true := by
  simp [isDue]

/-- Slot `m` is de-energized in RECOMBINE mode: its nibble of the last byte is 0000. -/
def State.Stopped (s : State) (m : MotorSlot) : Prop :=
  s.cfg.composeMode = .recombine ∧ slotNibble m s.lastByte = 0b0000

/-- Both nibbles of the byte 0x00 are 0000. -/
theorem slotNibble_zero (m : MotorSlot) : slotNibble m 0x00 = 0b0000 := by
  cases m <;> decide

/-- In RECOMBINE mode the byte made for either slot keeps a nibble 0000 of slot `m`, unless it is made for slot
`m` itself with another nibble (R125). -/
theorem State.Stopped.slotNibble_mux {s : State} {m : MotorSlot} (h : s.Stopped m) {k : MotorSlot}
    {nib : Nibble} (hk : k = m → nib = 0b0000) :
    slotNibble m (nibbleMux s.cfg.composeMode k nib s.lastByte) = 0b0000 := by
  obtain ⟨hmode, hzero⟩ := h
  rcases eq_or_eq_otherSlot k m with rfl | rfl
  · rw [slotNibble_nibbleMux, hk rfl]
  · rw [slotNibble_nibbleMux_other, hmode]
    exact hzero

/-- Every command but a STEP of slot `m` that fires keeps slot `m` de-energized: STOP_ALL sends 0x00, a STOP_MOTOR
and a STEP of the other slot send the mux, and the rest send nothing. -/
theorem State.Stopped.of_exec {s t : State} {m : MotorSlot} {i : Instr} (h : s.Stopped m)
    (hstep : ∀ d, i = .step m d → isDue s.now (s.deadline m) = false) (hexec : exec i s = .next t) :
    t.Stopped m := by
  refine ⟨(congrArg Config.composeMode (exec_cfg hexec)).trans h.left, ?_⟩
  rcases exec_cases hexec with ⟨-, rfl⟩ | ⟨k, d, rfl, hdue, rfl⟩ | ⟨k, d, -, -, rfl⟩ | ⟨a, -, rfl⟩ | ⟨-, rfl⟩ |
    ⟨k, -, rfl⟩
  case inr.inl =>
    refine h.slotNibble_mux ?_
    rintro rfl
    exact absurd hdue (by simp [hstep d rfl])
  case inr.inr.inr.inr.inl => exact slotNibble_zero m
  case inr.inr.inr.inr.inr => exact h.slotNibble_mux fun _ => rfl
  all_goals exact h.right

/-- The bytes a command adds to the trace are the one it leaves in `last_byte`, or none. -/
theorem exists_sent_of_exec {i : Instr} {s t : State} (h : exec i s = .next t) :
    ∃ sent, t.trace = s.trace ++ sent ∧ ∀ b ∈ sent, b = t.lastByte := by
  have hrun : runWord (encode i) s = .next t := (runWord_of_ok (decode_encode i) s).trans h
  rcases runWord_trace_cases hrun with ⟨htrace, -⟩ | ⟨htrace, -⟩
  · exact ⟨[], by simpa using htrace, by simp⟩
  · exact ⟨[t.lastByte], htrace, by simp⟩

/-- Every step but one that fires a STEP of slot `m` keeps slot `m` de-energized: waiting and an illegal word change
nothing, a command by `State.Stopped.of_exec`, and a reset leaves 0x00 (R44). -/
theorem State.Stopped.of_step {s t : State} {m : MotorSlot} (h : s.Stopped m)
    (hstep : ∀ w tick rest d, s.inputs = .command w tick :: rest → decode w = .ok (.step m d) →
      isDue tick (s.deadline m) = false) (ht : step s = .next t) : t.Stopped m := by
  refine ⟨(congrArg Config.composeMode (configNeverChanges s t ht)).trans h.left, ?_⟩
  rcases step_cases ht with ⟨-, rfl⟩ | ⟨w, tick, rest, hinputs, hrun⟩ | ⟨tick, rest, -, rfl⟩ |
    ⟨w, tick, point, resetTick, rest, u, -, -, rfl⟩
  · exact h.right
  · rcases runWord_cases hrun with ⟨i, hdecode, hexec⟩ | ⟨-, rfl⟩
    · have htaken : (s.accept (s.tickSample w tick) rest).Stopped m := h
      refine (htaken.of_exec (fun d hi => ?_) hexec).right
      subst hi
      exact (isDue_accept_tickSample hdecode s m tick rest).trans (hstep w tick rest d hinputs hdecode)
    · exact h.right
  · exact slotNibble_zero m
  · exact slotNibble_zero m

/-- STOP_MOTOR in RECOMBINE mode leaves its slot de-energized (R162). -/
theorem State.stopped_stop {s : State} (m : MotorSlot) (hmode : s.cfg.composeMode = .recombine) :
    (s.stop (nibbleMux s.cfg.composeMode m 0b0000 s.lastByte)).Stopped m :=
  ⟨hmode, slotNibble_nibbleMux ..⟩

/-- Settles O30: the result by `nibbleMux_recombine_zero`, then the invariant `State.Stopped` over a command, over
a step, and over a STEP of the other slot right after the stop. -/
theorem stopMotorRecombine : Obligations.StopMotorRecombine := by
  unfold Obligations.StopMotorRecombine
  obtain ⟨ha, hb⟩ := decode_stopMotor_words
  refine ⟨ha, hb, fun s m b hmode hbyte => ?_, fun s t m i hmode hzero hstep hexec => ?_,
    fun s t m hmode hzero hstep ht => ?_, fun s m d hmode hdue => ?_⟩
  · obtain rfl : b = nibbleMux .recombine m 0b0000 s.lastByte := by rw [nibbleMux_recombine_zero, hbyte]
    rw [exec_stopMotor, hmode, State.stop_spec]
    exact ⟨slotNibble_nibbleMux .., rfl⟩
  · have hstopped : s.Stopped m := ⟨hmode, hzero⟩
    obtain ⟨hmode', hzero'⟩ := hstopped.of_exec (fun d hi => (isDue_eq_false_iff _ _).2 (hstep d hi)) hexec
    obtain ⟨sent, htrace, hsent⟩ := exists_sent_of_exec hexec
    exact ⟨hzero', hmode', sent, htrace, fun b hmem => hsent b hmem ▸ hzero'⟩
  · have hstopped : s.Stopped m := ⟨hmode, hzero⟩
    obtain ⟨hmode', hzero'⟩ := hstopped.of_step
      (fun w tick rest d hi hd => (isDue_eq_false_iff _ _).2 (hstep w tick rest d hi hd)) ht
    exact ⟨hzero', hmode'⟩
  · have hstopped := s.stopped_stop m hmode
    have hfire := execStep_of_due d ((isDue_stop s
      (nibbleMux s.cfg.composeMode m 0b0000 s.lastByte) (otherSlot m)).trans ((isDue_iff _ _).2 hdue))
    refine ⟨_, _, exec_stopMotor m s, hstopped.right, hfire, rfl, ?_⟩
    refine (hstopped.of_exec (i := .step (otherSlot m) d) (fun e he => ?_) hfire).right
    cases m <;> cases he

end Sys2Proof.Machine
end

section
/-! PROOFS. The statements of 60_exceptions.md on completion: waiting changes nothing (R203, log 4), and no command
and no step can fail (R200 to R202, R205, logs 4 and 9). -/

namespace Sys2Proof.Machine

/-! ### Waiting -/

/-- Settles O38: with no input to take, a step is `State.waitForHost` (R203, log 4). -/
theorem idleStepKeepsState : Obligations.IdleStepKeepsState := by
  unfold Obligations.IdleStepKeepsState
  intro s hinputs
  calc step s
    _ = s.waitForHost := by rw [step, hinputs]
    _ = .next s := rfl

/-! ### Completion -/

/-- Every command completes in every state (R200): the next state is the one its own rule gives. -/
theorem exists_exec (i : Instr) (s : State) : ∃ t, exec i s = .next t := by
  cases i with
  | nop => exact ⟨_, exec_nop s⟩
  | step m d =>
    obtain ⟨t, hexec, -⟩ := exists_exec_step s m d
    exact ⟨t, hexec⟩
  | setDelay a => exact ⟨_, exec_setDelay a s⟩
  | stopAll => exact ⟨_, exec_stopAll s⟩
  | stopMotor m => exact ⟨_, exec_stopMotor m s⟩

/-- Every word completes: a legal one runs its command, an illegal one only raises IllegalCommand (R201, log 9). -/
theorem exists_runWord (w : CommandWord) (s : State) : ∃ t, runWord w s = .next t := by
  cases hdecode : decode w with
  | ok i =>
    rw [runWord_of_ok hdecode]
    exact exists_exec i s
  | error e => exact ⟨_, runWord_of_error hdecode s⟩

/-- Every step completes, whatever the host sends next; a reset in flight ends a command that would have completed
(R233). -/
theorem exists_step (s : State) : ∃ t, step s = .next t := by
  cases hinputs : s.inputs with
  | nil => exact ⟨s, idleStepKeepsState s hinputs⟩
  | cons x rest =>
    cases x with
    | command w tick =>
      rw [step_of_command hinputs]
      exact exists_runWord w _
    | reset tick => exact ⟨_, step_of_reset hinputs⟩
    | resetDuring w tick point resetTick =>
      obtain ⟨u, hrun⟩ := exists_runWord w (s.accept (s.tickSample w tick) rest)
      exact ⟨_, step_of_resetDuring hinputs hrun⟩

/-- Settles O39: commands by their five results, steps by the input at the head of the list. -/
theorem everyStepCompletes : Obligations.EveryStepCompletes := by
  unfold Obligations.EveryStepCompletes
  exact ⟨exists_exec, exists_step⟩

end Sys2Proof.Machine
end

section
/-! PROOFS. The statements of 70_reset_and_hazards.md: a reset that ends a command in flight (R233, log 7), what a
reset leaves on the device's outputs (R232, log 8), and the lag of a change of direction (R239). -/

namespace Sys2Proof.Machine

/-! ### A reset in flight -/

/-- A reset in flight (R233): the command it ends would have left `u`, and the step is the reset after the part of
`u`'s outputs that `point` leaves (log 7). -/
theorem exists_step_of_resetDuring {s : State} {w : CommandWord} {tick resetTick : BitVec s.cfg.tickW}
    {point : CutPoint} {rest : List (HostInput s.cfg.tickW)}
    (h : s.inputs = .resetDuring w tick point resetTick :: rest) :
    ∃ u : State, runWord w (s.accept (s.tickSample w tick) rest) = .next u ∧
      step { s with inputs := .command w tick :: rest } = .next u ∧
      step s = .next (({ s.accept (s.tickSample w tick) rest with
        outputs := cutOutputs point s.outputs u.outputs } : State).resetBlock resetTick) := by
  obtain ⟨u, hrun⟩ := exists_runWord w (s.accept (s.tickSample w tick) rest)
  exact ⟨u, hrun, (step_of_command rfl).trans hrun, step_of_resetDuring h hrun⟩

/-- A command that drives nothing leaves nothing behind, wherever a reset ends it. -/
theorem cutOutputs_self (point : CutPoint) (log : List OutEvent) : cutOutputs point log log = log := by
  cases point with
  | before => rfl
  | during => exact if_pos rfl
  | after => rfl

/-- A reset during a transmission leaves the latch line's fall and a cut shift. -/
theorem cutOutputs_during_of_ne {start full : List OutEvent} (h : full ≠ start) :
    cutOutputs .during start full = start ++ [.latch 0, .cut] :=
  if_neg h

/-- Settles O9: the outputs before the reset's own are `cutOutputs`, point by point, and the reset writes every
other field of the block. -/
theorem resetEndsCommandInFlight : Obligations.ResetEndsCommandInFlight := by
  unfold Obligations.ResetEndsCommandInFlight
  intro s w tick resetTick point rest hinputs
  obtain ⟨u, -, hcommand, hreset⟩ := exists_step_of_resetDuring hinputs
  refine ⟨cutOutputs point s.outputs u.outputs, u, hcommand, ?_, ?_, ?_, ?_, hreset⟩
  · rintro rfl
    rfl
  · rintro - hsilent
    rw [hsilent, cutOutputs_self]
  · rintro rfl hsent
    exact cutOutputs_during_of_ne hsent
  · rintro rfl
    rfl

/-! ### The register outputs -/

/-- After whole gestures nothing waits in the shift register. -/
theorem deviceAfter_staged {l : List OutEvent} (h : wholeGestures l = true) : (deviceAfter l).staged = none :=
  wholeGestures_staged l h _ rfl

/-- The outputs of a reset move nothing to the device's outputs where nothing is staged (R232). -/
theorem deviceAfter_append_reset {l : List OutEvent} (h : (deviceAfter l).staged = none) :
    deviceAfter (l ++ [.latch 1, .busBegin]) = deviceAfter l := by
  rw [deviceAfter_append]
  simp [DeviceView.event, h]

/-- The reset that cut a shift latches what the shift had left, which is unknown (R233). -/
theorem deviceAfter_append_cut_reset {l : List OutEvent} (h : (deviceAfter l).staged = none) :
    (deviceAfter ((l ++ [.latch 0, .cut]) ++ [.latch 1, .busBegin])).outputs = none := by
  rw [deviceAfter_append, deviceAfter_append]
  simp [DeviceView.event, h]

/-- A reset after whole gestures keeps the register outputs (R232). -/
theorem State.resetBlock_registerOutputs {s : State} (h : wholeGestures s.outputs = true)
    (tick : BitVec s.cfg.tickW) : (s.resetBlock tick).registerOutputs = s.registerOutputs := by
  rw [registerOutputs, resetBlock_outputs, deviceAfter_append_reset (deviceAfter_staged h)]
  rfl

/-- A word that drives something has put the byte it remembers on the register outputs (R62, R67). -/
theorem registerOutputs_of_runWord {w : CommandWord} {s u : State} (h : runWord w s = .next u)
    (hwhole : wholeGestures s.outputs = true) (hne : u.outputs ≠ s.outputs) :
    u.registerOutputs = some u.lastByte := by
  rcases runWord_outputs h with ⟨hkept, -⟩ | hsent
  · exact absurd hkept hne
  · rw [State.registerOutputs, hsent, deviceAfter_append_transmit (deviceAfter_staged hwhole)]

/-- Settles O55: where the reset follows whole gestures, which is everywhere but during a transmission, it keeps
the outputs of the device; there it latches the cut shift. -/
theorem resetAndRegisterOutputs : Obligations.ResetAndRegisterOutputs := by
  unfold Obligations.ResetAndRegisterOutputs
  refine fun s hwhole => ⟨fun tick rest hinputs => ?_, fun w tick point resetTick rest hinputs => ?_⟩
  · exact ⟨_, step_of_reset hinputs, State.resetBlock_registerOutputs hwhole tick⟩
  · obtain ⟨u, hrun, hcommand, hreset⟩ := exists_step_of_resetDuring hinputs
    refine ⟨_, u, hreset, hcommand, fun hsilent => ?_, fun hsent => ⟨?_, ?_, ?_⟩⟩
    · rw [hsilent, cutOutputs_self]
      exact State.resetBlock_registerOutputs hwhole resetTick
    · rintro rfl
      exact State.resetBlock_registerOutputs hwhole resetTick
    · rintro rfl
      rw [cutOutputs_during_of_ne hsent]
      exact deviceAfter_append_cut_reset (deviceAfter_staged hwhole)
    · rintro rfl
      have hfull : wholeGestures u.outputs = true := runWord_wholeGestures hrun hwhole
      calc _
        _ = u.registerOutputs :=
          State.resetBlock_registerOutputs (s := { s with outputs := u.outputs }) hfull resetTick
        _ = some u.lastByte := registerOutputs_of_runWord hrun hwhole hsent

/-! ### The direction lag -/

/-- Settles O27: the first fire leaves the phase advanced in its own direction, and the next one sends the pattern
of the phase it finds (R130). -/
theorem directionLag : Obligations.DirectionLag := by
  unfold Obligations.DirectionLag
  intro s m d hdue
  refine ⟨_, exec_step_of_msb_false d hdue, fun later e hlater => ?_⟩
  have hphase : ({ s.fire m d with now := later } : State).phase m = nextPhase (s.phase m) d :=
    (State.accept_phase _ m later _).trans (s.fire_phase m d)
  obtain ⟨u, hexec, hfires, hnibble⟩ := exists_exec_step { s.fire m d with now := later } m e
  have hfired : u.resp.fired = true := by
    rw [hfires, isDue_withNow, isDue_iff]
    exact hlater
  exact ⟨u, hexec, hfired, by rw [hnibble hfired, hphase]⟩

end Sys2Proof.Machine
end
